-- ==== Sys2Proof/Word.lean ====
section
/-! DEFINITION. The widths of the block's data (00_scope.md R12, 30_encoding.md R71): bytes, 16-bit counters,
16-bit command words, 4-bit and 3-bit fields. Every value is unsigned. -/

namespace Sys2Proof

/-- An unsigned byte, `u8` of R12. -/
abbrev Byte := BitVec 8

/-- An unsigned 16-bit counter, `u16` of R12. -/
abbrev Counter := BitVec 16

/-- One 16-bit command word (R71). -/
abbrev CommandWord := BitVec 16

/-- A register index as a command word carries it: `w[11:8]` (R72, R73). -/
abbrev RegIndex := BitVec 4

/-- The position of a pin of the expander, 0 to 7 (R9). -/
abbrev PinPos := BitVec 3

end Sys2Proof
end

