-- ==== Sys2Proof/Syntax.lean ====
section
/-! DEFINITION. The commands of 30_encoding.md R74, one constructor per row of the opcode table, with the operands
of their formats (R72, R73). -/

namespace Sys2Proof

/-- One of the two bus lines: 0 = SCL, 1 = SDA (R72). -/
inductive Line where
  | scl
  | sda
  deriving DecidableEq, Repr

/-- The fifteen commands. -/
inductive Instr where
  | lrel (l : Line)                   -- release a line, R90
  | ldrv (l : Line)                   -- drive a line low, R91
  | lrd (l : Line)                    -- read a line, R92
  | init                              -- check the idle bus, R101
  | start (d : Byte)                  -- start condition and address byte, R103
  | rstart (d : Byte)                 -- repeated start and address byte, R105
  | stop                              -- stop condition, R107
  | wrb (d : Byte)                    -- write one byte, R109
  | rdb (last : Bool)                 -- read one byte, R112
  | wreg (r : RegIndex) (d : Byte)    -- write one expander register, R131
  | rreg (r : RegIndex)               -- read one expander register, R133
  | config                            -- configure the expander, R135
  | wgpio (d : Byte)                  -- write GPIO and the shadow, R139
  | rgpio                             -- read GPIO, R141
  | tick                              -- one main-loop iteration, R150
  deriving DecidableEq, Repr

end Sys2Proof
end

