-- ==== Sys2Proof/WellFormed.lean ====
section
/-! DEFINITION. Which commands a command word can carry: the register operands 30_encoding.md R80 admits. -/

namespace Sys2Proof

/-- Every operand is one the encoding admits: RREG names one of the eleven registers 0x00 to 0x0A (R53), WREG one that
is neither `REG_GPIO` (0x09) nor `REG_OLAT` (0x0A). -/
def Instr.wellFormed : Instr → Bool
  | .lrel _ => true
  | .ldrv _ => true
  | .lrd _ => true
  | .init => true
  | .start _ => true
  | .rstart _ => true
  | .stop => true
  | .wrb _ => true
  | .rdb _ => true
  | .wreg r _ => decide (r.toNat ≤ 0x08)
  | .rreg r => decide (r.toNat ≤ 0x0A)
  | .config => true
  | .wgpio _ => true
  | .rgpio => true
  | .tick => true

end Sys2Proof
end

