-- ==== Sys2Proof/Decode.lean ====
section
/-! DEFINITION. Decoding of command words (30_encoding.md R71 to R80), total and rejecting by name, and after it the
encoder (R75). -/

namespace Sys2Proof

/-- Why a word is refused: the four ways of R79 and R80. -/
inductive Reserved where
  | opcodeZero      -- `op = 0x0` (R79 case 1)
  | fixedBits       -- a bit the format fixes at 0 is not 0 (R79 cases 2 to 5)
  | noSuchRegister  -- WREG or RREG with an index above 0x0A (R80)
  | shadowBypass    -- WREG to `REG_GPIO` or `REG_OLAT` (R80)
  deriving DecidableEq, Repr

/-- What a word decodes to: one of the 15 commands or `Reserved(w)` (R78). -/
inductive Decoded where
  | command (i : Instr)
  | reserved (why : Reserved)
  deriving DecidableEq, Repr

/-- `op = w[15:12]` (R71). -/
def opField (w : CommandWord) : BitVec 4 := w.extractLsb' 12 4

/-- `aux = w[11:8]` (R71); also the register index `r` of formats R and RB (R73). -/
def auxField (w : CommandWord) : BitVec 4 := w.extractLsb' 8 4

/-- `data = w[7:0]` (R71). -/
def dataField (w : CommandWord) : Byte := w.extractLsb' 0 8

/-- The line operand `l = w[8]`: 0 = SCL, 1 = SDA (R73). -/
def lineOfBit (l : Bool) : Line := if l then .sda else .scl

/-- An index of one of the eleven registers, 0x00 to 0x0A (R53, R80). -/
def isRegister (r : RegIndex) : Bool := decide (r.toNat ≤ 0x0A)

/-- An index WREG may name: a register, and neither `REG_GPIO` (0x09) nor `REG_OLAT` (0x0A) (R80). -/
def isWritable (r : RegIndex) : Bool := isRegister r && r != 0x09 && r != 0x0A

/-- Format N: no operand, `w[11:0]` zero (R72). -/
def formatN (i : Instr) (w : CommandWord) : Decoded :=
  if auxField w = 0 ∧ dataField w = 0 then .command i else .reserved .fixedBits

/-- Formats L and F: one bit `w[8]`, `w[11:9]` and `w[7:0]` zero (R72). -/
def formatBit (mk : Bool → Instr) (w : CommandWord) : Decoded :=
  if (auxField w).extractLsb' 1 3 = 0 ∧ dataField w = 0 then .command (mk ((auxField w).getLsbD 0))
  else .reserved .fixedBits

/-- Format B: a byte, `w[11:8]` zero (R72). -/
def formatB (mk : Byte → Instr) (w : CommandWord) : Decoded :=
  if auxField w = 0 then .command (mk (dataField w)) else .reserved .fixedBits

/-- Format R: a register index, `w[7:0]` zero; an index above 0x0A is refused (R72, R80). -/
def formatR (mk : RegIndex → Instr) (w : CommandWord) : Decoded :=
  if dataField w ≠ 0 then .reserved .fixedBits
  else if isRegister (auxField w) then .command (mk (auxField w))
  else .reserved .noSuchRegister

/-- Format RB: a register index and a byte; R80 refuses the indices above 0x0A, `REG_GPIO` and `REG_OLAT`. -/
def formatRB (mk : RegIndex → Byte → Instr) (w : CommandWord) : Decoded :=
  if isWritable (auxField w) then .command (mk (auxField w) (dataField w))
  else if isRegister (auxField w) then .reserved .shadowBypass
  else .reserved .noSuchRegister

/-- Decoding by the opcode map of R74. Its result depends on the word alone (R76). -/
def decode (w : CommandWord) : Decoded :=
  if opField w = 0x1 then formatBit (fun l => .lrel (lineOfBit l)) w
  else if opField w = 0x2 then formatBit (fun l => .ldrv (lineOfBit l)) w
  else if opField w = 0x3 then formatBit (fun l => .lrd (lineOfBit l)) w
  else if opField w = 0x4 then formatN .init w
  else if opField w = 0x5 then formatB .start w
  else if opField w = 0x6 then formatB .rstart w
  else if opField w = 0x7 then formatN .stop w
  else if opField w = 0x8 then formatB .wrb w
  else if opField w = 0x9 then formatBit .rdb w
  else if opField w = 0xA then formatRB .wreg w
  else if opField w = 0xB then formatR .rreg w
  else if opField w = 0xC then formatN .config w
  else if opField w = 0xD then formatB .wgpio w
  else if opField w = 0xE then formatN .rgpio w
  else if opField w = 0xF then formatN .tick w
  else .reserved .opcodeZero

/-- The command a decoded word stands for, if it stands for one. -/
def Decoded.command? : Decoded → Option Instr
  | .command i => some i
  | .reserved _ => none

/-- The decoder on a word of the opcode table, numbered as the table numbers its bits. Every command word is 16
bits (R71); a longer `nbits` is no word of this machine. -/
def decodeTableWord (nbits w : Nat) : Option Instr :=
  if nbits ≤ 16 then (decode (BitVec.ofNat 16 (w % 2 ^ nbits))).command? else none

/-- A word from its three fields (R71). -/
def packWord (op aux : BitVec 4) (data : Byte) : CommandWord := op ++ aux ++ data

/-- `l` as the bit `w[8]` (R73). -/
def Line.bit : Line → Bool
  | .scl => false
  | .sda => true

/-- The word of a command, by the patterns of R75. -/
def encode : Instr → CommandWord
  | .lrel l => packWord 0x1 (0#3 ++ BitVec.ofBool l.bit) 0
  | .ldrv l => packWord 0x2 (0#3 ++ BitVec.ofBool l.bit) 0
  | .lrd l => packWord 0x3 (0#3 ++ BitVec.ofBool l.bit) 0
  | .init => packWord 0x4 0 0
  | .start d => packWord 0x5 0 d
  | .rstart d => packWord 0x6 0 d
  | .stop => packWord 0x7 0 0
  | .wrb d => packWord 0x8 0 d
  | .rdb f => packWord 0x9 (0#3 ++ BitVec.ofBool f) 0
  | .wreg r d => packWord 0xA r d
  | .rreg r => packWord 0xB r 0
  | .config => packWord 0xC 0 0
  | .wgpio d => packWord 0xD 0 d
  | .rgpio => packWord 0xE 0 0
  | .tick => packWord 0xF 0 0

/-- The mask of each command's row of the opcode map (R74): the bits its pattern fixes. -/
def Instr.rowMask : Instr → CommandWord
  | .lrel _ => 0xFEFF
  | .ldrv _ => 0xFEFF
  | .lrd _ => 0xFEFF
  | .init => 0xFFFF
  | .start _ => 0xFF00
  | .rstart _ => 0xFF00
  | .stop => 0xFFFF
  | .wrb _ => 0xFF00
  | .rdb _ => 0xFEFF
  | .wreg _ _ => 0xF000
  | .rreg _ => 0xF0FF
  | .config => 0xFFFF
  | .wgpio _ => 0xFF00
  | .rgpio => 0xFFFF
  | .tick => 0xFFFF

/-- The match value of each command's row of the opcode map (R74). -/
def Instr.rowMatch : Instr → CommandWord
  | .lrel _ => 0x1000
  | .ldrv _ => 0x2000
  | .lrd _ => 0x3000
  | .init => 0x4000
  | .start _ => 0x5000
  | .rstart _ => 0x6000
  | .stop => 0x7000
  | .wrb _ => 0x8000
  | .rdb _ => 0x9000
  | .wreg _ _ => 0xA000
  | .rreg _ => 0xB000
  | .config => 0xC000
  | .wgpio _ => 0xD000
  | .rgpio => 0xE000
  | .tick => 0xF000

end Sys2Proof
end

