-- ==== Sys2Proof/Config.lean ====
section
/-! DEFINITION. The constants an implementation fixes (00_scope.md R9: a configuration of the model, no state of the
block, R36), their default values, and the free values the spec leaves to the environment. -/

namespace Sys2Proof

/-- The eleven registers of the expander, in the order of 20_memory.md R52. -/
inductive Reg where
  | iodir | ipol | gpinten | defval | intcon | iocon | gppu | intf | intcap | gpio | olat
  deriving DecidableEq, Repr

/-- The index on the wire of each expander register, a parameter of the model (R52, decision D8). Any byte may stand in
it (DESIGN CHOICE, log entry 21). -/
structure RegTable where
  iodir   : Byte
  ipol    : Byte
  gpinten : Byte
  defval  : Byte
  intcon  : Byte
  iocon   : Byte
  gppu    : Byte
  intf    : Byte
  intcap  : Byte
  gpio    : Byte
  olat    : Byte
  deriving DecidableEq, Repr

/-- The bit position of each pin role (R9, R10). -/
structure PinMap where
  red     : PinPos
  green   : PinPos
  blue    : PinPos
  switch  : PinPos
  fan     : PinPos
  dc      : PinPos
  boardUp : PinPos
  pdReq   : PinPos
  deriving DecidableEq, Repr

/-- What a transaction does between its first not-acknowledge and its STOP (R9, R132). -/
inductive NackPolicy where
  | abort
  | continueAll
  deriving DecidableEq, Repr

/-- The named delays of R9. The trace records a wait by its name, as the spec's own trace notation does. -/
inductive Delay where
  | tQ         -- bit quarter-period
  | tAck       -- acknowledge-sample delay
  | tTick      -- tick period
  | tDebounce  -- debounce confirmation delay
  | tFanSettle -- fan settle period
  deriving DecidableEq, Repr

/-- One assignment of the parameters of R9. Durations are in nanoseconds (log entry 5). -/
structure Config where
  devAddr    : BitVec 7
  regs       : RegTable
  cfgIocon   : Byte
  pins       : PinMap
  tQ         : Nat
  tAck       : Nat
  tFanSettle : Nat
  nBlink     : Counter
  nShutdown  : Counter
  nGuard     : Counter
  nackPolicy : NackPolicy
  deriving DecidableEq, Repr

/-- The index table of R52. -/
def RegTable.default : RegTable :=
  { iodir := 0x00, ipol := 0x01, gpinten := 0x02, defval := 0x03, intcon := 0x04, iocon := 0x05,
    gppu := 0x06, intf := 0x07, intcap := 0x08, gpio := 0x09, olat := 0x0A }

/-- The default pin map of R9. -/
def PinMap.default : PinMap :=
  { red := 0, green := 1, blue := 2, switch := 3, fan := 4, dc := 5, boardUp := 6, pdReq := 7 }

/-- The defaults of R9. For `T_Q`, `T_ACK` and `T_FAN_SETTLE` R9 gives none: the smallest values R11 admits
(DESIGN CHOICE, unsafe, log entry 5). -/
def Config.default : Config :=
  { devAddr := 0x20, regs := RegTable.default, cfgIocon := 0x00, pins := PinMap.default,
    tQ := 2, tAck := 1, tFanSettle := 0,
    nBlink := 50, nShutdown := 800, nGuard := 100, nackPolicy := .abort }

/-- The level a released line carries at the n-th unscripted `sample` of a run (40_line_control.md R95): a draw
of the environment, unconstrained by the block, so a free value. -/
opaque Config.freeLevel : Nat → Bool

/-- The byte the n-th unscripted failed read returns: `ANY_U8` of 42_register_driver.md R134, a free value. -/
opaque Config.freeByte : Nat → Byte

/-- How many guard iterations past the scripted samples are followed before the TICK counts as stuck
(43_power_sequencer.md R174, 93 entry U10): a free value, see log entry 4. -/
opaque Config.freePatience : Nat → Nat

end Sys2Proof
end

