-- ==== Sys2Proof/Machine/State.lean ====
section
/-! DEFINITION. The state of the block (10_state.md), as plain data, its value after reset (R38), and the reasons a
step can stop. -/

namespace Sys2Proof.Machine

open Sys2Proof

/-- One event of the bus trace: `REL(L)`, `LOW(L)`, `RD(L)=b`, `WAIT(d)` (R14, R33). -/
inductive Event where
  | rel (l : Line)
  | low (l : Line)
  | rd (l : Line) (b : Bool)
  | wait (d : Delay)
  deriving DecidableEq, Repr

/-- The environment's answers still to come (R17, R36, R95, R134). The scripted draws are consumed in order; past
their end the n-th free value of Config answers, and the two counters say how many free values were used (log
entry 3). The model's own fields, no state of the block. -/
structure Env where
  lineDraws : List Bool
  byteDraws : List Byte
  freeLines : Nat
  freeBytes : Nat
  deriving DecidableEq, Repr

/-- What Bus Line Control and the Protocol Engine act on: the two line bits (R21), the trace (R33) and the
environment's answers. -/
structure Bus where
  sclDrv : Bool
  sdaDrv : Bool
  trace  : List Event
  env    : Env
  deriving DecidableEq, Repr

/-- The boot phase (R25). -/
inductive Phase where
  | bootInit
  | bootConfig
  | run
  deriving DecidableEq, Repr

/-- The Sequencer State (R29). The codes 5, 6 and 7 that R29 refuses have no value of this type. -/
inductive SeqState where
  | off
  | poweringUp
  | on
  | powerDownRequested
  | powerDownWait
  deriving DecidableEq, Repr

/-- The state of the machine: the twelve architectural registers and the trace of R20 (the two line bits and the
trace inside `bus`), the parameter assignment `cfg` of R9 that no command writes (log entry 2), and `pending`, the
command words a test harness has handed the block and that have not run yet (R70, log entry 1). -/
structure State where
  bus        : Bus
  rOk        : Bool
  rData      : Byte
  rBusfault  : Bool
  phase      : Phase
  shadow     : Byte
  state      : SeqState
  blinkCnt   : Counter
  blinkPhase : Bool
  countdown  : Counter
  guardCnt   : Counter
  cfg        : Config
  pending    : List CommandWord
  deriving DecidableEq, Repr

/-- Why the machine stops with a fault. The block itself raises none (60_exceptions.md R190). -/
inductive Fault where
  /-- TICK's guard loop has not ended on the samples the environment gave: the stuck case of 43_power_sequencer.md
  R174 and 93 entry U10. Raised by TICK in PowerDownWait only, after every scripted sample has been used. Safe: the
  model stops where the block would still be polling. -/
  | guardLoopHang
  deriving DecidableEq, Repr

/-- Why the model refuses. None of these is an error of the block (60_exceptions.md R194). -/
inductive Refusal where
  /-- The instruction has no meaning in the model yet. Raised by no arm. Safe. -/
  | notModelled (mnemonic : String)
  /-- A reserved command word (30_encoding.md R79, R80). Raised by step. Safe. -/
  | reservedWord (w : CommandWord)
  /-- WREG or RREG with an index that is no register (R53, R80). Raised by their meanings on an operand no word
  carries. Safe. -/
  | noSuchRegister (r : RegIndex)
  /-- WREG to the GPIO or output-latch register, which would bypass the shadow (R80, R225). Raised by WREG. Safe. -/
  | shadowBypass (r : RegIndex)
  /-- A parameter assignment that violates R11 (R194). Raised by step. Safe. -/
  | badConfig
  /-- A state record with a counter outside its legal range (R30 to R32, R194). Raised by step. Safe. -/
  | badState
  deriving DecidableEq, Repr

/-- The state right after power-on under the parameters `c` (R38, R215): nothing scripted, nothing pending. -/
def State.resetWith (c : Config) : State :=
  { bus := { sclDrv := false, sdaDrv := false, trace := [],
             env := { lineDraws := [], byteDraws := [], freeLines := 0, freeBytes := 0 } },
    rOk := false, rData := 0x00, rBusfault := false,
    phase := .bootInit, shadow := 0x00, state := .off,
    blinkCnt := 0, blinkPhase := false, countdown := 0, guardCnt := 0,
    cfg := c, pending := [] }

/-- The machine right after reset, under the default parameters of R9. -/
def State.reset : State := State.resetWith Config.default

end Sys2Proof.Machine
end

