-- ==== Sys2Proof/Machine/Ops.lean ====
section
/-! DEFINITION. The named operations every meaning is built from: the draws of the environment, the line primitives of
40_line_control.md, the wait, the result registers, the record checks of 60_exceptions.md R194. The block has no
traps (R190, R197): the one way a command reports an error is `State.finish` with `false`. -/

namespace Sys2Proof

/-- The eight pin positions, in the order of R9. -/
def PinMap.list (p : PinMap) : List PinPos :=
  [p.red, p.green, p.blue, p.switch, p.fan, p.dc, p.boardUp, p.pdReq]

/-- The constraints of R11 on a parameter assignment (`DEV_ADDR < 0x80` and the upper bounds of the counts hold by
the fields' types). R11 bounds no entry of the index table: that a table may hold any byte, one above 0x0A too, where R53
says that no command issues such an index, is the model's choice (DESIGN CHOICE, log entry 21). -/
def Config.valid (c : Config) : Bool :=
  decide (0 < c.tAck) && decide (c.tAck < c.tQ) && c.nBlink != 0 && c.nShutdown != 0 && c.nGuard != 0
    && decide (c.pins.list).Nodup

end Sys2Proof

namespace Sys2Proof.Machine

open Sys2Proof

/-- One level of a released line as the environment presents it: `sample(L)`, a draw (R95). -/
def Env.drawLine (e : Env) : Bool × Env :=
  match e.lineDraws with
  | level :: rest => (level, { e with lineDraws := rest })
  | [] => (Config.freeLevel e.freeLines, { e with freeLines := e.freeLines + 1 })

/-- One byte chosen by the environment: the draw `ANY_U8` (R134). -/
def Env.drawByte (e : Env) : Byte × Env :=
  match e.byteDraws with
  | v :: rest => (v, { e with byteDraws := rest })
  | [] => (Config.freeByte e.freeBytes, { e with freeBytes := e.freeBytes + 1 })

/-- Append one event to the trace (R33). -/
def Bus.emit (ev : Event) (b : Bus) : Bus := { b with trace := b.trace ++ [ev] }

/-- Whether the block drives line `l` low: the output enable of R200. -/
def Bus.drv (l : Line) (b : Bus) : Bool :=
  match l with
  | .scl => b.sclDrv
  | .sda => b.sdaDrv

/-- Configure the pin of line `l`: `true` = output driving low, `false` = input (R21). The output-value latch is
hardwired 0, so there is no third setting (R93). -/
def Bus.setDrv (l : Line) (v : Bool) (b : Bus) : Bus :=
  match l with
  | .scl => { b with sclDrv := v }
  | .sda => { b with sdaDrv := v }

/-- `release(L)` (R90). -/
def Bus.release (l : Line) (b : Bus) : Bus := (b.setDrv l false).emit (.rel l)

/-- `drive_low(L)` (R91). -/
def Bus.driveLow (l : Line) (b : Bus) : Bus := (b.setDrv l true).emit (.low l)

/-- `wait(d)`: recorded, changes no state (R24). -/
def Bus.wait (d : Delay) (b : Bus) : Bus := b.emit (.wait d)

/-- The level of a line and the environment after looking at it: 0 for a line the block drives, with no draw
consumed; a draw for a released line (R92, R95, R97). -/
def Bus.level (l : Line) (b : Bus) : Bool × Env :=
  if b.drv l then (false, b.env) else b.env.drawLine

/-- `read(L)` (R92). -/
def Bus.read (l : Line) (b : Bus) : Bool × Bus :=
  ((b.level l).1, { b with env := (b.level l).2 }.emit (.rd l (b.level l).1))

/-- A release followed by its settle delay (R100). -/
def Bus.releaseWait (l : Line) (d : Delay) (b : Bus) : Bus := (b.release l).wait d

/-- A drive-low followed by its settle delay (R100). -/
def Bus.driveLowWait (l : Line) (d : Delay) (b : Bus) : Bus := (b.driveLow l).wait d

/-- Set line `l` to the level `v` as open-drain emulation allows: release for 1, drive low for 0; then the settle
delay (R81, R109). -/
def Bus.putWait (l : Line) (v : Bool) (d : Delay) (b : Bus) : Bus :=
  if v then b.releaseWait l d else b.driveLowWait l d

/-- Act on the bus alone. -/
def State.onBus (f : Bus → Bus) (s : State) : State := { s with bus := f s.bus }

/-- End a command that returns no byte: `r_ok` takes its result, `r_data` stays (R22; decision D38). -/
def State.finish (ok : Bool) (s : State) : State := { s with rOk := ok }

/-- End a command that returns a byte (R22). -/
def State.finishData (ok : Bool) (v : Byte) (s : State) : State := { s with rOk := ok, rData := v }

/-- The code of a phase (R25). -/
def Phase.code : Phase → Nat
  | .bootInit => 0
  | .bootConfig => 1
  | .run => 2

/-- The 3-bit code of a sequencer state (R29). -/
def SeqState.code : SeqState → BitVec 3
  | .off => 0
  | .poweringUp => 1
  | .on => 2
  | .powerDownRequested => 3
  | .powerDownWait => 4

/-- The sequencer state a 3-bit code stands for; 5, 6 and 7 stand for none and are refused (R29, R194). -/
def SeqState.ofCode (c : BitVec 3) : Option SeqState :=
  if c = 0 then some .off
  else if c = 1 then some .poweringUp
  else if c = 2 then some .on
  else if c = 3 then some .powerDownRequested
  else if c = 4 then some .powerDownWait
  else none

/-- Every counter is in its legal range (R30, R31, R32). -/
def State.legal (s : State) : Bool :=
  decide (s.blinkCnt < s.cfg.nBlink) && decide (s.countdown ≤ s.cfg.nShutdown)
    && decide (s.guardCnt ≤ s.cfg.nGuard)

/-- The refusal of an ill record, if any: a parameter assignment violating R11, then a counter out of range (R194). -/
def State.recordRefusal (s : State) : Option Refusal :=
  if s.cfg.valid = false then some .badConfig
  else if s.legal = false then some .badState
  else none

/-- The command the block issues by itself in each phase: INIT, then CONFIG, then TICK forever
(70_reset_and_hazards.md R220). -/
def Phase.ownCommand : Phase → Instr
  | .bootInit => .init
  | .bootConfig => .config
  | .run => .tick

end Sys2Proof.Machine
end

