-- ==== Sys2Proof/Machine/Operands.lean ====
section
/-! DEFINITION. Operand assembly: bits and bytes (00_scope.md R12), pin masks (R10), register indices and address
bytes (20_memory.md R51, R52), and the pseudo-instructions of 30_encoding.md R86. -/

namespace Sys2Proof

/-- `bit(p) = 1 << p` (R10). -/
def bit (p : PinPos) : Byte := 1#8 <<< p.toNat

/-- `LED_MASK` (R10). -/
def Config.ledMask (c : Config) : Byte := bit c.pins.red ||| bit c.pins.green ||| bit c.pins.blue

/-- `M_FAN` (R10). -/
def Config.mFan (c : Config) : Byte := bit c.pins.fan

/-- `M_DC` (R10). -/
def Config.mDc (c : Config) : Byte := bit c.pins.dc

/-- `M_PDREQ` (R10). -/
def Config.mPdReq (c : Config) : Byte := bit c.pins.pdReq

/-- `M_SWITCH` (R10). -/
def Config.mSwitch (c : Config) : Byte := bit c.pins.switch

/-- `M_BOARDUP` (R10). -/
def Config.mBoardUp (c : Config) : Byte := bit c.pins.boardUp

/-- `IN_MASK`, the two input roles (R10). -/
def Config.inMask (c : Config) : Byte := c.mSwitch ||| c.mBoardUp

/-- `OUT_MASK`, the six output roles (R10). -/
def Config.outMask (c : Config) : Byte := ~~~c.inMask

/-- The address byte `{DEV_ADDR[6:0], rw}` (R51). -/
def Config.addrByte (c : Config) (rw : Bool) : Byte := c.devAddr ++ BitVec.ofBool rw

/-- `ADDR_W` (R51). -/
def Config.addrW (c : Config) : Byte := c.addrByte false

/-- `ADDR_R` (R51). -/
def Config.addrR (c : Config) : Byte := c.addrByte true

/-- The index of a register in the table (R52). -/
def RegTable.index (t : RegTable) : Reg → Byte
  | .iodir => t.iodir
  | .ipol => t.ipol
  | .gpinten => t.gpinten
  | .defval => t.defval
  | .intcon => t.intcon
  | .iocon => t.iocon
  | .gppu => t.gppu
  | .intf => t.intf
  | .intcap => t.intcap
  | .gpio => t.gpio
  | .olat => t.olat

/-- The index of a register under the parameters. -/
def Config.reg (c : Config) (r : Reg) : Byte := c.regs.index r

/-- The length of a named delay in nanoseconds: `T_TICK` and `T_DEBOUNCE` are 10 ms (R9). A lower bound on the real
time (R226); no rule of the model depends on it. -/
def Config.duration (c : Config) : Delay → Nat
  | .tQ => c.tQ
  | .tAck => c.tAck
  | .tTick => 10000000
  | .tDebounce => 10000000
  | .tFanSettle => c.tFanSettle

/-- `START.W` (R86). -/
def Config.startW (c : Config) : Instr := .start c.addrW

/-- `START.R` (R86). -/
def Config.startR (c : Config) : Instr := .start c.addrR

/-- `RSTART.R` (R86). -/
def Config.rstartR (c : Config) : Instr := .rstart c.addrR

/-- `RDB.LAST` (R86). -/
def rdbLast : Instr := .rdb true

/-- `RDB.MORE` (R86). -/
def rdbMore : Instr := .rdb false

end Sys2Proof

namespace Sys2Proof.Machine

open Sys2Proof

/-- `v[i] <- x` (R12). -/
def setBit (v : Byte) (i : Nat) (x : Bool) : Byte :=
  if x then v ||| (1#8 <<< i) else v &&& ~~~(1#8 <<< i)

/-- `zext_8(b)` of a level (R92). -/
def byteOfLevel (b : Bool) : Byte := if b then 0x01 else 0x00

/-- The register index operand `r`, zero-extended to a byte (R73). -/
def indexByte (r : RegIndex) : Byte := r.setWidth 8

/-- Why WREG refuses its index, if it does (R80, R225): no register, or a register whose write would bypass the
shadow, by R80's own numbers or by the index table in force (log entry 6). -/
def wregRefusal (c : Config) (r : RegIndex) : Option Refusal :=
  if isRegister r = false then some (.noSuchRegister r)
  else if isWritable r = false ∨ indexByte r = c.reg .gpio ∨ indexByte r = c.reg .olat then
    some (.shadowBypass r)
  else none

/-- Why RREG refuses its index, if it does (R80). -/
def rregRefusal (r : RegIndex) : Option Refusal :=
  if isRegister r = false then some (.noSuchRegister r) else none

end Sys2Proof.Machine
end

