-- ==== Sys2Proof/Machine/Flags.lean ====
section
/-! DEFINITION. Every flag the spec computes: the result of an acknowledge slot, the bus-fault verdict, the predicates on
a sample (43_power_sequencer.md R156) and the LED function (R151). The block has no arithmetic flags (R181). -/

namespace Sys2Proof.Machine

open Sys2Proof

/-- The level of an acknowledge slot as a result: low = ack (R83, R109). -/
def ackOf (level : Bool) : Bool := !level

/-- INIT's success: both lines read high (R101). -/
def idleOk (scl sda : Bool) : Bool := scl && sda

/-- `pressed(s)`: the switch sense is active low (R156). -/
def pressed (c : Config) (s : Byte) : Bool := !s.getLsbD c.pins.switch.toNat

/-- `released(s)` (R156). -/
def released (c : Config) (s : Byte) : Bool := !pressed c s

/-- `up(s)`: the board's powered-up signal, sensed high (R156). -/
def up (c : Config) (s : Byte) : Bool := s.getLsbD c.pins.boardUp.toNat

/-- `down(s)` (R156). -/
def down (c : Config) (s : Byte) : Bool := !up c s

/-- `led(state, phase)` (R151): a 1 bit lights an LED. -/
def led (c : Config) (st : SeqState) (phase : Bool) : Byte :=
  match st with
  | .off => bit c.pins.red
  | .poweringUp => if phase then bit c.pins.green else 0x00
  | .on => bit c.pins.green
  | .powerDownRequested => if phase then bit c.pins.red else 0x00
  | .powerDownWait => bit c.pins.red ||| bit c.pins.blue

/-- The classes R193 names for a failed command; no state holds them. -/
inductive ErrorClass where
  | busFault
  | nackAddr
  | nackReg
  | nackData
  deriving DecidableEq, Repr

/-- The class of a failed WREG or WGPIO from the levels of its acknowledge slots in order, named as R193 names them. The
first nack decides: under `ABORT` that is R195, under `CONTINUE` with several nacks the spec names no class and the
first is the model's choice (DESIGN CHOICE, log entry 20). -/
def writeErrorClass (levels : List Bool) : Option ErrorClass :=
  match levels with
  | true :: _ => some .nackAddr
  | false :: true :: _ => some .nackReg
  | false :: false :: true :: _ => some .nackData
  | _ => none

/-- The class of a failed RREG or RGPIO from the levels of its acknowledge slots in order: the address, the index, then
the address of the repeated start (R193; DEDUCED, log entry 16). The first nack decides: under `ABORT` that is R195, under
`CONTINUE` with several nacks it is the model's choice (DESIGN CHOICE, log entry 20). -/
def readErrorClass (levels : List Bool) : Option ErrorClass :=
  match levels with
  | true :: _ => some .nackAddr
  | false :: true :: _ => some .nackReg
  | false :: false :: true :: _ => some .nackAddr
  | _ => none

/-- The class of an INIT from its result (R191, R193). -/
def initErrorClass (ok : Bool) : Option ErrorClass := if ok then none else some .busFault

/-- The class of a START or RSTART from its result (R193). -/
def startErrorClass (ok : Bool) : Option ErrorClass := if ok then none else some .nackAddr

end Sys2Proof.Machine
end

