-- ==== Sys2Proof/Machine/LineControl.lean ====
section
/-! DEFINITION. Bus Line Control (40_line_control.md): LREL, LDRV, LRD. -/

namespace Sys2Proof.Machine

open Sys2Proof

/-- LREL, release a line (R90). -/
def execLrel (l : Line) (s : State) : Host.Outcome State Fault Refusal :=
  .next ((s.onBus (Bus.release l)).finish true)

/-- LDRV, drive a line low (R91). -/
def execLdrv (l : Line) (s : State) : Host.Outcome State Fault Refusal :=
  .next ((s.onBus (Bus.driveLow l)).finish true)

/-- LRD, read a line (R92). -/
def execLrd (l : Line) (s : State) : Host.Outcome State Fault Refusal :=
  .next ((s.onBus fun b => (b.read l).2).finishData true (byteOfLevel (s.bus.read l).1))

end Sys2Proof.Machine
end

