-- ==== Sys2Proof/Machine/ProtocolEngine.lean ====
section
/-! DEFINITION. The Protocol Engine (41_protocol_engine.md): INIT, START, RSTART, STOP, WRB, RDB. Every transition is
followed by one wait: `T_ACK` in an acknowledge slot, `T_Q` elsewhere (R100). -/

namespace Sys2Proof.Machine

open Sys2Proof

/-- One clock pulse of a written bit: SDA set, SCL released, SCL driven low (R109). -/
def Bus.sendBit (x : Bool) (b : Bus) : Bus :=
  ((b.putWait .sda x .tQ).releaseWait .scl .tQ).driveLowWait .scl .tQ

/-- The bits `n-1` down to 0 of `v` (R55, R109). -/
def Bus.sendBits : Nat → Byte → Bus → Bus
  | 0, _, b => b
  | n + 1, v, b => Bus.sendBits n v (b.sendBit (v.getLsbD n))

/-- The bus in the sampling position of a written byte's acknowledge slot: SDA handed to the receiver, SCL released
(R109). -/
def Bus.openAckSlot (b : Bus) : Bus := (b.releaseWait .sda .tAck).releaseWait .scl .tAck

/-- `write_byte(v)` (R109): whether the byte was acknowledged, and the bus after it. -/
def Bus.writeByte (v : Byte) (b : Bus) : Bool × Bus :=
  let slot := ((b.sendBits 8 v).openAckSlot).read .sda
  (ackOf slot.1, slot.2.driveLowWait .scl .tAck)

/-- One clocked-in bit: SDA sampled while SCL is released (R112). -/
def Bus.receiveBit (b : Bus) : Bool × Bus :=
  let r := (b.releaseWait .scl .tQ).read .sda
  (r.1, r.2.driveLowWait .scl .tQ)

/-- Clock in the bits `n-1` down to 0 into `v` (R55, R112). -/
def Bus.receiveBits : Nat → Byte → Bus → Byte × Bus
  | 0, v, b => (v, b)
  | n + 1, v, b => Bus.receiveBits n (setBit v n b.receiveBit.1) b.receiveBit.2

/-- `read_byte(last)` (R112): the assembled byte, and the bus after the block's own acknowledge slot, SDA left at the
acknowledge level (R113). -/
def Bus.readByte (last : Bool) (b : Bus) : Byte × Bus :=
  let r := (b.releaseWait .sda .tQ).receiveBits 8 0x00
  (r.1, ((r.2.putWait .sda last .tAck).releaseWait .scl .tAck).driveLowWait .scl .tAck)

/-- `start(a)` (R103). -/
def Bus.start (a : Byte) (b : Bus) : Bool × Bus :=
  ((b.driveLowWait .sda .tQ).driveLowWait .scl .tQ).writeByte a

/-- `rstart(a)`: SDA released first, then SCL, then a start (R105, R106). -/
def Bus.rstart (a : Byte) (b : Bus) : Bool × Bus :=
  ((b.releaseWait .sda .tQ).releaseWait .scl .tQ).start a

/-- `stop()` (R107). -/
def Bus.stop (b : Bus) : Bus :=
  ((b.driveLowWait .sda .tQ).releaseWait .scl .tQ).releaseWait .sda .tQ

/-- INIT's line events: both lines released and both read, SCL first. Its result and the bus after it (R101). -/
def Bus.checkIdle (b : Bus) : Bool × Bus :=
  let c := ((b.releaseWait .scl .tQ).releaseWait .sda .tQ).read .scl
  let d := c.2.read .sda
  (idleOk c.1 d.1, d.2)

/-- The phase after INIT (R101, R25). -/
def Phase.afterInit : Phase → Phase
  | .bootInit => .bootConfig
  | .bootConfig => .bootConfig
  | .run => .run

/-- INIT, check the idle bus (R101). -/
def execInit (s : State) : Host.Outcome State Fault Refusal :=
  let r := s.bus.checkIdle
  .next (State.finish r.1 { s with bus := r.2, rBusfault := !r.1, phase := s.phase.afterInit })

/-- START, start condition and address byte (R103). -/
def execStart (d : Byte) (s : State) : Host.Outcome State Fault Refusal :=
  .next ((s.onBus fun b => (b.start d).2).finish (s.bus.start d).1)

/-- RSTART, repeated start and address byte (R105). -/
def execRstart (d : Byte) (s : State) : Host.Outcome State Fault Refusal :=
  .next ((s.onBus fun b => (b.rstart d).2).finish (s.bus.rstart d).1)

/-- STOP, stop condition; it always succeeds (R107). -/
def execStop (s : State) : Host.Outcome State Fault Refusal :=
  .next ((s.onBus Bus.stop).finish true)

/-- WRB, write one byte and sample the acknowledge (R109). -/
def execWrb (d : Byte) (s : State) : Host.Outcome State Fault Refusal :=
  .next ((s.onBus fun b => (b.writeByte d).2).finish (s.bus.writeByte d).1)

/-- RDB, read one byte and drive the acknowledge slot; it always succeeds (R112). -/
def execRdb (last : Bool) (s : State) : Host.Outcome State Fault Refusal :=
  .next ((s.onBus fun b => (b.readByte last).2).finishData true (s.bus.readByte last).1)

end Sys2Proof.Machine
end

