-- ==== Sys2Proof/Machine/RegisterDriver.lean ====
section
/-! DEFINITION. The Device Register Driver (42_register_driver.md): WREG, RREG, CONFIG, WGPIO, RGPIO. -/

namespace Sys2Proof.Machine

open Sys2Proof

/-- Whether a transaction whose acknowledges so far give `ok` sends its next phase (R131, R132). -/
def goesOn (c : Config) (ok : Bool) : Bool := ok || c.nackPolicy == .continueAll

/-- Send one more byte phase `f` of a transaction if it is reached; the result is the AND of the acknowledges
(R131). -/
def Bus.phase (c : Config) (f : Bus → Bool × Bus) (p : Bool × Bus) : Bool × Bus :=
  if goesOn c p.1 then ((f p.2).1 && p.1, (f p.2).2) else p

/-- `wreg(r, v)`, the register write transaction `S ADDR_W A r A v A P` (R131). It is also `wreg'`, which WGPIO alone
issues to `REG_GPIO` (R139). -/
def Bus.writeTransaction (c : Config) (r v : Byte) (b : Bus) : Bool × Bus :=
  let p := Bus.phase c (Bus.writeByte v) (Bus.phase c (Bus.writeByte r) (b.start c.addrW))
  (p.1, p.2.stop)

/-- The three acknowledged phases of a register read: `S ADDR_W A r A Sr ADDR_R A` (R133). -/
def Bus.readPhases (c : Config) (r : Byte) (b : Bus) : Bool × Bus :=
  Bus.phase c (Bus.rstart c.addrR) (Bus.phase c (Bus.writeByte r) (b.start c.addrW))

/-- `rreg(r)`, the register read transaction: success, the byte, and the bus (R133). The data byte is clocked in when
it is reached, and a failed read answers the draw `ANY_U8` whatever was clocked in (R134). -/
def Bus.readTransaction (c : Config) (r : Byte) (b : Bus) : Bool × Byte × Bus :=
  let p := b.readPhases c r
  let d := if goesOn c p.1 then p.2.readByte true else (0x00, p.2)
  let e := d.2.stop
  if p.1 then (true, d.1, e) else (false, e.env.drawByte.1, { e with env := e.env.drawByte.2 })

/-- `wgpio(v)`: the write to `REG_GPIO`, and the shadow updated whatever the acknowledges were (R139, R140). -/
def State.wgpio (v : Byte) (s : State) : Bool × State :=
  let w := s.bus.writeTransaction s.cfg (s.cfg.reg .gpio) v
  (w.1, { s with bus := w.2, shadow := v })

/-- `rgpio()`: success, the byte, and the bus (R141). -/
def Bus.rgpio (c : Config) (b : Bus) : Bool × Byte × Bus := b.readTransaction c (c.reg .gpio)

/-- One register write of CONFIG, its result discarded (R138). -/
def State.configWrite (r : Reg) (v : Byte) (s : State) : State :=
  s.onBus fun b => (b.writeTransaction s.cfg (s.cfg.reg r) v).2

/-- The six writes of CONFIG in their order, the direction register last (R135, R136, R144). -/
def State.configWrites (s : State) : State :=
  let s1 := s.configWrite .iocon s.cfg.cfgIocon
  let s2 := s1.configWrite .ipol 0x00
  let s3 := s2.configWrite .gpinten 0x00
  let s4 := s3.configWrite .gppu s.cfg.mSwitch
  let s5 := (s4.wgpio 0x00).2
  s5.configWrite .iodir s.cfg.inMask

/-- The phase after CONFIG (R135, R25). -/
def Phase.afterConfig : Phase → Phase
  | .bootInit => .bootInit
  | .bootConfig => .run
  | .run => .run

/-- WREG, write one expander register (R131); an index R80 reserves is refused. -/
def execWreg (r : RegIndex) (d : Byte) (s : State) : Host.Outcome State Fault Refusal :=
  match wregRefusal s.cfg r with
  | some why => .refused why
  | none =>
    .next ((s.onBus fun b => (b.writeTransaction s.cfg (indexByte r) d).2).finish
      (s.bus.writeTransaction s.cfg (indexByte r) d).1)

/-- RREG, read one expander register (R133); an index R80 reserves is refused. -/
def execRreg (r : RegIndex) (s : State) : Host.Outcome State Fault Refusal :=
  match rregRefusal r with
  | some why => .refused why
  | none =>
    let t := s.bus.readTransaction s.cfg (indexByte r)
    .next ((s.onBus fun _ => t.2.2).finishData t.1 t.2.1)

/-- CONFIG, configure the expander; nothing is surfaced (R135, R138). -/
def execConfig (s : State) : Host.Outcome State Fault Refusal :=
  .next (State.finish true { s.configWrites with phase := s.phase.afterConfig })

/-- WGPIO, write the GPIO register and the shadow (R139). -/
def execWgpio (d : Byte) (s : State) : Host.Outcome State Fault Refusal :=
  .next ((s.wgpio d).2.finish (s.wgpio d).1)

/-- RGPIO, read the GPIO register (R141). -/
def execRgpio (s : State) : Host.Outcome State Fault Refusal :=
  let t := s.bus.rgpio s.cfg
  .next ((s.onBus fun _ => t.2.2).finishData t.1 t.2.1)

end Sys2Proof.Machine
end

