-- ==== Sys2Proof/Machine/PowerSequencer.lean ====
section
/-! DEFINITION. The Power Sequencer (43_power_sequencer.md): TICK, one iteration of the main loop. -/

namespace Sys2Proof.Machine

open Sys2Proof

/-- `blink_advance()` (R152). -/
def State.blinkAdvance (s : State) : State :=
  { s with
    blinkCnt := if s.blinkCnt + 1 = s.cfg.nBlink then 0 else s.blinkCnt + 1
    blinkPhase := if s.blinkCnt + 1 = s.cfg.nBlink then !s.blinkPhase else s.blinkPhase }

/-- `wgpio(v)` with its acknowledge ignored, as the sequencer issues it (R153, 60_exceptions.md R192). -/
def State.writePins (v : Byte) (s : State) : State := (s.wgpio v).2

/-- The value of the render write: the LED bits replaced, every other bit from the shadow (R153). -/
def State.renderValue (s : State) : Byte :=
  (s.shadow &&& ~~~s.cfg.ledMask) ||| led s.cfg s.state s.blinkPhase

/-- The render write (R153). -/
def State.render (s : State) : State := s.writePins s.renderValue

/-- `wait(d)` by the sequencer. -/
def State.wait (d : Delay) (s : State) : State := s.onBus (Bus.wait d)

/-- One sample: the byte of an `rgpio()`, used whatever its success flag (R156, R142). -/
def State.sample (s : State) : Byte × State :=
  let t := s.bus.rgpio s.cfg
  (t.2.1, { s with bus := t.2.2 })

/-- `confirm(P)` (R157): two samples `T_DEBOUNCE` apart that both satisfy `P`; the second is taken only if the first
does. -/
def State.confirm (P : Byte → Bool) (s : State) : Bool × State :=
  let s1 := s.sample
  if P s1.1 then
    let s2 := (s1.2.wait .tDebounce).sample
    (P s2.1, s2.2)
  else (false, s1.2)

/-- `eval_off()` (R159). -/
def State.evalOff (s : State) : State :=
  let c := s.confirm (pressed s.cfg)
  if c.1 then
    let s1 := c.2.writePins (c.2.shadow ||| s.cfg.mFan)
    let s2 := s1.wait .tFanSettle
    let s3 := s2.writePins (s2.shadow ||| s.cfg.mDc)
    { s3 with state := .poweringUp }
  else c.2

/-- `eval_poweringup()` (R162). -/
def State.evalPoweringUp (s : State) : State :=
  let c := s.confirm (up s.cfg)
  if c.1 then { c.2 with state := .on } else c.2

/-- The entry to PowerDownWait: the request cleared, the countdown loaded (R164, R167, R168). -/
def State.enterPowerDownWait (s : State) : State :=
  let s1 := s.writePins (s.shadow &&& ~~~s.cfg.mPdReq)
  { s1 with countdown := s.cfg.nShutdown, state := .powerDownWait }

/-- `eval_on()` (R164, R165): the board-down condition first, then the switch. -/
def State.evalOn (s : State) : State :=
  let s1 := s.sample
  if down s.cfg s1.1 then
    let s2 := (s1.2.wait .tDebounce).sample
    if down s.cfg s2.1 then s2.2.enterPowerDownWait else s2.2
  else if released s.cfg s1.1 then
    let s2 := (s1.2.wait .tDebounce).sample
    if released s.cfg s2.1 && up s.cfg s2.1 then
      let s3 := s2.2.writePins (s2.2.shadow ||| s.cfg.mPdReq)
      { s3 with state := .powerDownRequested }
    else s2.2
  else s1.2

/-- `eval_pdr()` (R167). -/
def State.evalPowerDownRequested (s : State) : State :=
  let c := s.confirm (down s.cfg)
  if c.1 then c.2.enterPowerDownWait else c.2

/-- One pass of the guard loop's body: one sample, re-arm if pressed, else count down, then the tick wait (R172). -/
def State.guardPass (s : State) : State :=
  let s1 := s.sample
  let s2 := { s1.2 with guardCnt := if pressed s.cfg s1.1 then s.cfg.nGuard else s1.2.guardCnt - 1 }
  s2.wait .tTick

/-- The guard loop followed for at most `fuel` passes: the state in which it ended, or `none` if it has not (R172,
R174). -/
def guardLoop : Nat → State → Option State
  | 0, s => if s.guardCnt = 0 then some s else none
  | fuel + 1, s => if s.guardCnt = 0 then some s else guardLoop fuel s.guardPass

/-- How many passes of the guard loop are followed: more than the scripted samples can serve, since every pass
consumes at least one, and then a free number (log entry 4). -/
def Env.guardFuel (e : Env) : Nat := Config.freePatience e.freeLines + (e.lineDraws.length + 1)

/-- `guard()` (R172). -/
def State.guard (s : State) : Option State :=
  guardLoop s.bus.env.guardFuel { s with guardCnt := s.cfg.nGuard }

/-- The power cut: board supply, then fan (R170). -/
def State.cutPower (s : State) : State :=
  let s1 := s.writePins (s.shadow &&& ~~~s.cfg.mDc)
  s1.writePins (s1.shadow &&& ~~~s.cfg.mFan)

/-- `eval_pdw()` (R170): `none` if the guard loop it entered has not ended. -/
def State.evalPowerDownWait (s : State) : Option State :=
  let s1 := { s with countdown := s.countdown - 1 }
  if s1.countdown = 0 then
    match s1.cutPower.guard with
    | some s2 => some { s2 with state := .off }
    | none => none
  else some s1

/-- The end of a TICK: the tick wait and the result (R175, R176). -/
def State.endTick (s : State) : State := (s.wait .tTick).finish true

/-- TICK, one main-loop iteration: blink advance, render, evaluation, tick wait (R150). A guard loop that has not ended
leaves the TICK stuck (R174). -/
def execTick (s : State) : Host.Outcome State Fault Refusal :=
  let r := s.blinkAdvance.render
  match r.state with
  | .off => .next r.evalOff.endTick
  | .poweringUp => .next r.evalPoweringUp.endTick
  | .on => .next r.evalOn.endTick
  | .powerDownRequested => .next r.evalPowerDownRequested.endTick
  | .powerDownWait =>
    match r.evalPowerDownWait with
    | some t => .next t.endTick
    | none => .fault .guardLoopHang

end Sys2Proof.Machine
end

