-- ==== Sys2Proof/Machine/Dispatch.lean ====
section
/-! DEFINITION. One arm per command, each one direct call of its meaning. -/

namespace Sys2Proof.Machine

open Sys2Proof

def exec (i : Instr) (s : State) : Host.Outcome State Fault Refusal :=
  match i with
  | .lrel l => Sys2Proof.Machine.execLrel l s
  | .ldrv l => Sys2Proof.Machine.execLdrv l s
  | .lrd l => Sys2Proof.Machine.execLrd l s
  | .init => Sys2Proof.Machine.execInit s
  | .start d => Sys2Proof.Machine.execStart d s
  | .rstart d => Sys2Proof.Machine.execRstart d s
  | .stop => Sys2Proof.Machine.execStop s
  | .wrb d => Sys2Proof.Machine.execWrb d s
  | .rdb last => Sys2Proof.Machine.execRdb last s
  | .wreg r d => Sys2Proof.Machine.execWreg r d s
  | .rreg r => Sys2Proof.Machine.execRreg r s
  | .config => Sys2Proof.Machine.execConfig s
  | .wgpio d => Sys2Proof.Machine.execWgpio d s
  | .rgpio => Sys2Proof.Machine.execRgpio s
  | .tick => Sys2Proof.Machine.execTick s

end Sys2Proof.Machine
end

