-- ==== Sys2Proof/Machine/Step.lean ====
section
/-! DEFINITION. One step of the machine: one whole command (00_scope.md R17). -/

namespace Sys2Proof.Machine

open Sys2Proof

/-- One step. A record or a parameter assignment that R194 refuses is refused. A command word a harness has handed
over runs next (R70), a reserved word is refused (R79, R80); with none pending the block issues its own command of
the phase (R220). -/
def step (s : State) : Host.Outcome State Fault Refusal :=
  match s.recordRefusal with
  | some why => .refused why
  | none =>
    match s.pending with
    | [] => exec s.phase.ownCommand s
    | w :: rest =>
      match decode w with
      | .command i => exec i { s with pending := rest }
      | .reserved _ => .refused (.reservedWord w)

/-- The state with one command word handed over as the next to run (R70). -/
def State.withFetchWord (s : State) (nbits w : Nat) : State :=
  { s with pending := BitVec.ofNat 16 (w % 2 ^ nbits) :: s.pending }

end Sys2Proof.Machine
end

