-- ==== Sys2Proof/Safety.lean ====
section
/-! DEFINITION. The terms claims use: the environment's answers in order, the wire traces of 95_test_vectors.md's
notation, an independent receiver that reads a trace as bytes on the wire (30_encoding.md R82 to R84), wait times
(70_reset_and_hazards.md R235), and the invariants of the state record. No meaning uses anything of this file. -/

namespace Sys2Proof

/-- The constraints of R11 on a parameter assignment: distinct pin positions, `0 < T_ACK < T_Q`, and the three windows at
least 1. Its other bounds hold by the fields' types, and the index table has none (log entry 21). -/
def Config.MeetsR11 (c : Config) : Prop :=
  [c.pins.red, c.pins.green, c.pins.blue, c.pins.switch, c.pins.fan, c.pins.dc, c.pins.boardUp,
      c.pins.pdReq].Nodup ∧
    0 < c.tAck ∧ c.tAck < c.tQ ∧ 1 ≤ c.nBlink.toNat ∧ 1 ≤ c.nShutdown.toNat ∧ 1 ≤ c.nGuard.toNat

end Sys2Proof

namespace Sys2Proof.Machine

open Sys2Proof

/-! The environment's answers. -/

/-- The next `n` levels the environment presents, and what is left of it. -/
def Env.takeLines : Nat → Env → List Bool × Env
  | 0, e => ([], e)
  | n + 1, e => (e.drawLine.1 :: (Env.takeLines n e.drawLine.2).1, (Env.takeLines n e.drawLine.2).2)

/-- The bits of a byte, bit 7 first (R55). -/
def msbFirst (v : Byte) : List Bool :=
  [v.getLsbD 7, v.getLsbD 6, v.getLsbD 5, v.getLsbD 4, v.getLsbD 3, v.getLsbD 2, v.getLsbD 1, v.getLsbD 0]

/-- The byte whose bits are given bit 7 first (R55). -/
def byteOfLevels (levels : List Bool) : Byte :=
  levels.foldl (fun v x => (v <<< 1) ||| (if x then 1#8 else 0#8)) 0#8

/-- The levels of an acknowledged register write: three acks (R84). -/
def ackedWrite : List Bool := [false, false, false]

/-- The levels of an acknowledged register read that returns `v`: three acks, then the bits of `v` (R84). -/
def ackedRead (v : Byte) : List Bool := [false, false, false] ++ msbFirst v

/-- `s` with the environment's next levels scripted. -/
def State.scripted (levels : List Bool) (s : State) : State :=
  { s with bus := { s.bus with env := { s.bus.env with lineDraws := levels } } }

/-! The wire traces, in the notation of 95_test_vectors.md. -/

/-- `S`. -/
def startEvents : List Event := [.low .sda, .wait .tQ, .low .scl, .wait .tQ]

/-- `Sr`. -/
def restartEvents : List Event := [.rel .sda, .wait .tQ, .rel .scl, .wait .tQ] ++ startEvents

/-- `P`. -/
def stopEvents : List Event := [.low .sda, .wait .tQ, .rel .scl, .wait .tQ, .rel .sda, .wait .tQ]

/-- A release for the level 1, a drive-low for the level 0 (R81). -/
def setEvent (l : Line) (v : Bool) : Event := if v then .rel l else .low l

/-- One written bit. -/
def bitEvents (x : Bool) : List Event :=
  [setEvent .sda x, .wait .tQ, .rel .scl, .wait .tQ, .low .scl, .wait .tQ]

/-- `B(v)` with the acknowledge slot sampled at `level`: `B(v)/A` for 0, `B(v)/N` for 1. -/
def byteEvents (v : Byte) (level : Bool) : List Event :=
  (msbFirst v).flatMap bitEvents
    ++ [.rel .sda, .wait .tAck, .rel .scl, .wait .tAck, .rd .sda level, .low .scl, .wait .tAck]

/-- One read bit sampled at `x`. -/
def sampleEvents (x : Bool) : List Event :=
  [.rel .scl, .wait .tQ, .rd .sda x, .low .scl, .wait .tQ]

/-- `R(v)` for the sampled levels of `v`, with the block's own acknowledge slot. -/
def readEvents (levels : List Bool) (last : Bool) : List Event :=
  [.rel .sda, .wait .tQ] ++ levels.flatMap sampleEvents
    ++ [setEvent .sda last, .wait .tAck, .rel .scl, .wait .tAck, .low .scl, .wait .tAck]

/-- How many of a transaction's three acknowledged phases are sent, from the levels of its acknowledge slots: all
under `CONTINUE`, those up to the first nack under `ABORT` (R132). -/
def phasesSent (p : NackPolicy) (levels : List Bool) : Nat :=
  match p with
  | .continueAll => 3
  | .abort =>
    match levels with
    | true :: _ => 1
    | false :: true :: _ => 2
    | _ => 3

/-- Every acknowledge slot was an ack. -/
def allAcked (levels : List Bool) : Bool := levels.all (fun level => !level)

/-- The trace of a register write with its first `n` phases sent (R84, R131). -/
def writeFrame (c : Config) (r v : Byte) (n : Nat) (levels : List Bool) : List Event :=
  startEvents ++ (([c.addrW, r, v].zip levels).take n).flatMap (fun p => byteEvents p.1 p.2) ++ stopEvents

/-- The trace of the acknowledged phases of a register read with the first `n` of them sent (R84, R133). -/
def readHeadFrame (c : Config) (r : Byte) (n : Nat) (levels : List Bool) : List Event :=
  startEvents ++ (([c.addrW, r].zip levels).take n).flatMap (fun p => byteEvents p.1 p.2)
    ++ (if n = 3 then restartEvents ++ ((levels.drop 2).take 1).flatMap (byteEvents c.addrR) else [])

/-- Whether a register read clocks in its data byte (R133). -/
def dataReached (p : NackPolicy) (levels : List Bool) : Bool := allAcked levels || p == .continueAll

/-- The levels of the data byte of a register read that clocks one in: the eight after those of its three acknowledge
slots. -/
def Env.dataLevels (e : Env) : List Bool := ((e.takeLines 3).2.takeLines 8).1

/-- The environment after the levels a register write consumes. -/
def Env.afterWrite (p : NackPolicy) (e : Env) : Env := (e.takeLines (phasesSent p (e.takeLines 3).1)).2

/-- The environment after the levels a register read consumes. -/
def Env.afterRead (p : NackPolicy) (e : Env) : Env :=
  if dataReached p (e.takeLines 3).1 then ((e.takeLines 3).2.takeLines 8).2 else e.afterWrite p

/-- The trace of a register read in the environment `e` (R84, R133). -/
def readFrame (c : Config) (r : Byte) (e : Env) : List Event :=
  readHeadFrame c r (phasesSent c.nackPolicy (e.takeLines 3).1) (e.takeLines 3).1
    ++ (if dataReached c.nackPolicy (e.takeLines 3).1 then readEvents e.dataLevels true else [])
    ++ stopEvents

/-- The trace of a run of register writes, (index, value) pairs in order, and the environment after it: each write is cut
at its own first nack under `ABORT`, and the next one follows whatever its acknowledges were (R84, R132, R138). -/
def writeFrames (c : Config) : List (Byte × Byte) → Env → List Event × Env
  | [], e => ([], e)
  | (r, v) :: rest, e =>
    let a := (e.takeLines 3).1
    let n := phasesSent c.nackPolicy a
    let w := writeFrames c rest (e.takeLines n).2
    (writeFrame c r v n a ++ w.1, w.2)

/-- The trace of an acknowledged register write. -/
def ackedWriteFrame (c : Config) (r v : Byte) : List Event := writeFrame c r v 3 ackedWrite

/-- The trace of an acknowledged register read that returns `v`. -/
def ackedReadFrame (c : Config) (r v : Byte) : List Event :=
  readHeadFrame c r 3 ackedWrite ++ readEvents (msbFirst v) true ++ stopEvents

/-- Every transition is followed by exactly one wait of the Protocol Engine, and no wait stands elsewhere (R100). -/
def settled : List Event → Bool
  | [] => true
  | .rel _ :: .wait .tQ :: rest => settled rest
  | .rel _ :: .wait .tAck :: rest => settled rest
  | .low _ :: .wait .tQ :: rest => settled rest
  | .low _ :: .wait .tAck :: rest => settled rest
  | .rd _ _ :: rest => settled rest
  | _ => false

/-- A whole transaction: a START condition first, a STOP condition last, and every transition in between with its one wait
of the engine (R57, R100). No wait of the sequencer can stand in it. -/
def IsTransaction (evs : List Event) : Prop :=
  settled evs = true ∧ ∃ middle, evs = startEvents ++ middle ++ stopEvents

/-- A wait of the sequencer, standing alone. -/
def IsSequencerWait (evs : List Event) : Prop :=
  evs = [.wait .tTick] ∨ evs = [.wait .tDebounce] ∨ evs = [.wait .tFanSettle]

/-- Whole transactions one after another, with waits of the sequencer between them and nothing else. -/
def PacedBySequencer (evs : List Event) : Prop :=
  ∃ pieces : List (List Event), evs = pieces.flatten ∧ ∀ p ∈ pieces, IsTransaction p ∨ IsSequencerWait p

/-! A receiver on the wire: it sees the line levels the block produces, and knows nothing of how it produces them. -/

/-- What a receiver sees on the wire: a start or stop condition, or a byte with the level of its acknowledge slot
(R82, R83). -/
inductive WireSymbol where
  | start
  | stop
  | byte (v : Byte) (level : Bool)
  deriving DecidableEq, Repr

/-- The receiver: the two line levels, the level of the clock pulse in progress if there is one, the levels clocked
so far of the byte in progress, and the symbols seen. -/
structure Receiver where
  scl     : Bool
  sda     : Bool
  pulse   : Option Bool
  levels  : List Bool
  symbols : List WireSymbol
  deriving DecidableEq, Repr

/-- A receiver on an idle bus (R82). -/
def Receiver.idle : Receiver := { scl := true, sda := true, pulse := none, levels := [], symbols := [] }

/-- The end of a clock pulse: its level is clocked in, and the ninth level completes a byte (R83). -/
def Receiver.clockIn (level : Bool) (r : Receiver) : Receiver :=
  if r.levels.length = 8 then
    { r with levels := [], symbols := r.symbols ++ [.byte (byteOfLevels r.levels) level] }
  else { r with levels := r.levels ++ [level] }

/-- What one event of the trace makes the receiver see (R82): SDA falling while SCL is high is a start, rising a stop;
a clock pulse is SCL rising and falling again, its level that of SDA as the block sets it, or of the block's sample where
it took one (DEDUCED, log entry 17: the wire as R206's duties make it). -/
def Receiver.see (r : Receiver) : Event → Receiver
  | .rel .scl => if r.scl then r else { r with scl := true, pulse := some r.sda }
  | .low .scl =>
    match r.pulse with
    | some level => Receiver.clockIn level { r with scl := false, pulse := none }
    | none => { r with scl := false }
  | .rel .sda =>
    if r.scl && !r.sda then
      { r with sda := true, pulse := none, levels := [], symbols := r.symbols ++ [.stop] }
    else { r with sda := true }
  | .low .sda =>
    if r.scl && r.sda then
      { r with sda := false, pulse := none, levels := [], symbols := r.symbols ++ [.start] }
    else { r with sda := false }
  | .rd .sda level => { r with pulse := r.pulse.map fun _ => level }
  | .rd .scl _ => r
  | .wait _ => r

/-- The symbols a receiver sees in a stretch of trace that begins on an idle bus. -/
def wireSymbols (evs : List Event) : List WireSymbol := (evs.foldl Receiver.see Receiver.idle).symbols

/-- SDA as the block sets it at each rise of SCL, for a stretch of trace that begins with SCL low (R110): the bit is
`true` where SDA is released. -/
def levelsAtClockRise : Bool → List Event → List Bool
  | _, [] => []
  | _, .rel .sda :: rest => levelsAtClockRise true rest
  | _, .low .sda :: rest => levelsAtClockRise false rest
  | sda, .rel .scl :: rest => sda :: levelsAtClockRise sda rest
  | sda, .low .scl :: rest => levelsAtClockRise sda rest
  | sda, .rd _ _ :: rest => levelsAtClockRise sda rest
  | sda, .wait _ :: rest => levelsAtClockRise sda rest

/-- A stretch of trace without its waits: the line events in order (R110, R83). -/
def withoutWaits (evs : List Event) : List Event := evs.filter fun | .wait _ => false | _ => true

/-- The register writes an echoing, always acknowledging device at `ADDR_W` takes from the symbols it sees: (index,
value) pairs (R84, R143). -/
def deviceWrites (addrW : Byte) : List WireSymbol → List (Byte × Byte)
  | .start :: .byte a false :: .byte r false :: .byte v false :: .stop :: rest =>
    if a = addrW then (r, v) :: deviceWrites addrW rest else deviceWrites addrW rest
  | _ :: rest => deviceWrites addrW rest
  | [] => []

/-- The register file of such a device after some writes. -/
def deviceAfter (writes : List (Byte × Byte)) (regs : Byte → Byte) : Byte → Byte :=
  writes.foldl (fun f w r => if r = w.1 then w.2 else f r) regs

/-! Times. -/

/-- The sum of the waits of a stretch of trace, in nanoseconds (R235). -/
def waitTime (c : Config) : List Event → Nat
  | [] => 0
  | .wait d :: rest => c.duration d + waitTime c rest
  | .rel _ :: rest => waitTime c rest
  | .low _ :: rest => waitTime c rest
  | .rd _ _ :: rest => waitTime c rest

/-! The record. -/

/-- Every counter is in the range R30 to R32 give it: `blink_cnt` below `N_BLINK`, `countdown` up to `N_SHUTDOWN`,
`guard_cnt` up to `N_GUARD`. -/
def State.CountersInRange (s : State) : Prop :=
  s.blinkCnt.toNat + 1 ≤ s.cfg.nBlink.toNat ∧ s.countdown.toNat ≤ s.cfg.nShutdown.toNat ∧
    s.guardCnt.toNat ≤ s.cfg.nGuard.toNat

/-! Encodings. -/

/-- The register operands R80 reserves: WREG above 0x08, RREG above 0x0A. -/
def reservedOperand (w : CommandWord) : Prop :=
  (opField w = 0xA ∧ 0x08 < (auxField w).toNat) ∨ (opField w = 0xB ∧ 0x0A < (auxField w).toNat)

/-- The five kinds of reserved words of R79. -/
def reservedByFormat (w : CommandWord) : Prop :=
  opField w = 0x0 ∨
    (opField w ∈ [0x1#4, 0x2#4, 0x3#4, 0x9#4] ∧ ((auxField w).extractLsb' 1 3 ≠ 0 ∨ dataField w ≠ 0)) ∨
    (opField w ∈ [0x4#4, 0x7#4, 0xC#4, 0xE#4, 0xF#4] ∧ w.extractLsb' 0 12 ≠ 0) ∨
    (opField w ∈ [0x5#4, 0x6#4, 0x8#4, 0xD#4] ∧ auxField w ≠ 0) ∨
    (opField w = 0xB ∧ dataField w ≠ 0)

/-! The sequencer's writes. -/

/-- The value of the render write of a TICK that starts in `s`: the LED bits of the blink phase after the advance, the
rest of the shadow (R150 to R153). -/
def State.rendered (s : State) : Byte :=
  (s.shadow &&& ~~~s.cfg.ledMask) ||| led s.cfg s.state s.blinkAdvance.blinkPhase

/-- The trace of an acknowledged WGPIO of `v`. -/
def gpioWriteFrame (c : Config) (v : Byte) : List Event := ackedWriteFrame c (c.reg .gpio) v

/-- The trace of an acknowledged sample that returns `v`. -/
def sampleFrame (c : Config) (v : Byte) : List Event := ackedReadFrame c (c.reg .gpio) v

/-- The switch reads pressed in the sample `v`: its bit is 0 (R156). -/
def switchPressed (c : Config) (v : Byte) : Prop := v.getLsbD c.pins.switch.toNat = false

/-- The board reads up in the sample `v`: its bit is 1 (R156). -/
def boardIsUp (c : Config) (v : Byte) : Prop := v.getLsbD c.pins.boardUp.toNat = true

/-- The state at the end of a TICK that started in `s`: the blink timer advanced, an idle bus with the events `evs`
appended and `rest` still to be drawn, the shadow `sh`, the sequencer state `st` and the countdown `cd`; `r_ok` true
and every other field as it was (R150, R176). -/
def State.tickEnd (s : State) (evs : List Event) (rest : List Bool) (sh : Byte) (st : SeqState) (cd : Counter) :
    State :=
  { s.blinkAdvance with
    bus := { sclDrv := false, sdaDrv := false, trace := s.bus.trace ++ evs ++ [.wait .tTick],
             env := { s.bus.env with lineDraws := rest } }
    shadow := sh
    state := st
    countdown := cd
    rOk := true }

/-! The guard loop. -/

/-- The guard timer after a run of samples that read pressed (`true`) or released (`false`), starting from `n` under
the window `window`; `none` if it reaches 0 before the last of them (R172). -/
def guardTimer (window : Counter) (n : Counter) : List Bool → Option Counter
  | [] => some n
  | p :: rest => if n = 0 then none else guardTimer window (if p then window else n - 1) rest

/-! Invariants. -/

/-- Both lines released: the idle bus (R82, R104). -/
def Bus.idle (b : Bus) : Prop := b.sclDrv = false ∧ b.sdaDrv = false

/-- What every command keeps: legal parameters and counters (R11, R30 to R32), the guard timer 0 between commands
(R32), and a countdown that has not run out in PowerDownWait (R170). -/
def State.Kept (s : State) : Prop :=
  s.cfg.valid = true ∧ s.blinkCnt < s.cfg.nBlink ∧ s.countdown ≤ s.cfg.nShutdown ∧ s.guardCnt = 0 ∧
    (s.state = .powerDownWait → s.countdown ≠ 0)

/-- The shadow holds the bit of pin `p`. -/
def State.pinSet (p : PinPos) (s : State) : Prop := s.shadow.getLsbD p.toNat = true

/-- The outputs the shadow holds in each sequencer state (R178): fan and board supply on in every state but Off,
the power-down request in PowerDownRequested only, the two input bits never. -/
def State.OutputsMatch (s : State) : Prop :=
  (s.pinSet s.cfg.pins.fan ↔ s.state ≠ .off) ∧
    (s.pinSet s.cfg.pins.dc ↔ s.state ≠ .off) ∧
    (s.pinSet s.cfg.pins.pdReq ↔ s.state = .powerDownRequested) ∧
    ¬ s.pinSet s.cfg.pins.switch ∧ ¬ s.pinSet s.cfg.pins.boardUp

/-- What the block keeps while it runs on its own, no harness issuing commands (R220): an idle bus between commands
(R57, R104), Off until it has booted, and the outputs of the state it is in. -/
def State.OnItsOwn (s : State) : Prop :=
  s.Kept ∧ s.pending = [] ∧ s.bus.idle ∧ (s.phase ≠ .run → s.state = .off) ∧ s.OutputsMatch

end Sys2Proof.Machine
end

