-- ==== Sys2Proof/Certificates/Slice0/Obligations.lean ====
section
/-! DEFINITION. The statements for the provers, one `def Obligations.<Name> : Prop` each. -/

open Sys2Proof Sys2Proof.Machine

/-! ## Encoding (30_encoding.md) -/

/-- The word of a well-formed command decodes to that command, with every operand at every value the encoding admits
(R73, R75, R80; the command words are the spec's decision D2). -/
def Obligations.DecodeOfEncodeIsTheCommand : Prop :=
  ∀ i : Instr, i.wellFormed = true → decode (encode i) = .command i

/-- A word decodes only to the command it is the word of, and that command is well formed (R75, R78, R80). -/
def Obligations.EncodeOfDecodeIsTheWord : Prop :=
  ∀ (w : CommandWord) (i : Instr), decode w = .command i → encode i = w ∧ i.wellFormed = true

/-- A word selects the row of the opcode map that it matches under the row's mask, unless R80 excludes it, and no word
matches two rows (R74, R78). -/
def Obligations.WordSelectsTheRowItMatches : Prop :=
  ∀ (w : CommandWord) (j : Instr),
    ((∃ i, decode w = .command i ∧ i.rowMatch = j.rowMatch) ↔
        (w &&& j.rowMask = j.rowMatch ∧ ¬ reservedOperand w)) ∧
      ∀ k : Instr, w &&& j.rowMask = j.rowMatch → w &&& k.rowMask = k.rowMatch → j.rowMatch = k.rowMatch

/-- The words that decode to no command are those R79 and R80 reserve, and no others. -/
def Obligations.ReservedWordsAreTheListedOnes : Prop :=
  ∀ w : CommandWord, (∃ why, decode w = .reserved why) ↔ (reservedByFormat w ∨ reservedOperand w)

/-- A reserved word handed to the block is refused, and the refusal stands for the whole run (R79, R80). That the word at
the head of `pending` is the next to run is the model's choice (DESIGN CHOICE, log entry 1); that the refusal is answered
in place of a next state is its reading of R79's mark (DEDUCED, log entry 10). -/
def Obligations.ReservedWordIsRefusedForTheRun : Prop :=
  ∀ (s : State) (w : CommandWord) (rest : List CommandWord),
    s.recordRefusal = none → s.pending = w :: rest → (reservedByFormat w ∨ reservedOperand w) →
      ∀ n, Host.Core.run Sys2Proof.core (n + 1) s = .refused (.reservedWord w)

/-- A few words of the spec's encoding vectors (95_test_vectors.md section 2) decode as listed there. -/
def Obligations.SpecWordsDecode : Prop :=
  decode 0x1100 = .command (.lrel .sda) ∧ decode 0x5040 = .command (.start 0x40) ∧
    decode 0x9100 = .command (.rdb true) ∧ decode 0xA548 = .command (.wreg 0x5 0x48) ∧
    decode 0xB900 = .command (.rreg 0x9) ∧ decode 0xF000 = .command .tick ∧
    decode 0xA900 = .reserved .shadowBypass ∧ decode 0xBF00 = .reserved .noSuchRegister

/-! ## The step (00_scope.md R17, 70_reset_and_hazards.md R220) -/

/-- A command word handed over that decodes to a command runs as that command (R17, R70). That the word at the head of
`pending` runs in place of the block's own command, and is taken off, is the model's choice (DESIGN CHOICE, log entry 1;
the spec says nothing of the order of the two). -/
def Obligations.StepRunsTheDecodedCommand : Prop :=
  ∀ (s : State) (w : CommandWord) (rest : List CommandWord) (i : Instr),
    s.recordRefusal = none → s.pending = w :: rest → decode w = .command i →
      step s = exec i { s with pending := rest }

/-- A word handed to the block (R70) is the next command it runs, with nothing else changed. That it runs before the words
already pending and before the block's own command is the model's choice (DESIGN CHOICE, log entry 1). -/
def Obligations.HandedWordRunsNext : Prop :=
  ∀ (s : State) (i : Instr), s.recordRefusal = none → i.wellFormed = true →
    step (s.withFetchWord 16 (encode i).toNat) = exec i s

/-- With no word handed over, the block issues its own command: INIT in `BOOT_INIT`, CONFIG in `BOOT_CONFIG`, TICK in
`RUN` (R220; the order is the spec's decision D21). That the block's own command waits until no word is pending is the
model's choice (DESIGN CHOICE, log entry 1). -/
def Obligations.BlockIssuesItsOwnCommand : Prop :=
  ∀ s : State, s.recordRefusal = none → s.pending = [] →
    step s = (match s.phase with
      | .bootInit => exec .init s
      | .bootConfig => exec .config s
      | .run => exec .tick s)

/-- A parameter assignment that violates R11 is refused, then a record with a counter out of its range (R30 to R32),
and nothing else of the record is (R194; decisions D32, D34). That the step is where the record is checked, and that bad
parameters are answered before a bad counter, is the model's choice (DESIGN CHOICE, log entry 9). -/
def Obligations.IllRecordIsRefused : Prop :=
  ∀ s : State,
    (¬ s.cfg.MeetsR11 → step s = .refused .badConfig) ∧
    (s.cfg.MeetsR11 → ¬ s.CountersInRange → step s = .refused .badState) ∧
    (s.cfg.MeetsR11 → s.CountersInRange → s.recordRefusal = none)

/-- The 3-bit codes of the five sequencer states; 5, 6 and 7 stand for none (R29, decision D35). That no state of the
model can hold one of those three is its choice of types (DESIGN CHOICE, log entry 8). -/
def Obligations.SequencerStateCodes : Prop :=
  (∀ st : SeqState, SeqState.ofCode st.code = some st) ∧
    (∀ c : BitVec 3, SeqState.ofCode c = none ↔ 5 ≤ c.toNat) ∧
    SeqState.code .off = 0 ∧ SeqState.code .poweringUp = 1 ∧ SeqState.code .on = 2 ∧
    SeqState.code .powerDownRequested = 3 ∧ SeqState.code .powerDownWait = 4

/-! ## Reset and boot (70_reset_and_hazards.md) -/

/-- The value of every field after power-on, under any parameters. Those of the block are R38's (R215; all but the
sequencer state and the released lines are the spec's decision D20, the phase its D21). The last five, no pending word
and an environment with nothing scripted and no free value used, are the model's own fields and its own choice
(DESIGN CHOICE, log entry 7). -/
def Obligations.ResetValues : Prop :=
  ∀ c : Config,
    let s := State.resetWith c
    s.bus.sclDrv = false ∧ s.bus.sdaDrv = false ∧ s.rOk = false ∧ s.rData = 0x00 ∧ s.rBusfault = false ∧
      s.phase = .bootInit ∧ s.shadow = 0x00 ∧ s.state = .off ∧ s.blinkCnt = 0 ∧ s.blinkPhase = false ∧
      s.countdown = 0 ∧ s.guardCnt = 0 ∧ s.bus.trace = [] ∧ s.cfg = c ∧ s.pending = [] ∧
      s.bus.env.lineDraws = [] ∧ s.bus.env.byteDraws = [] ∧ s.bus.env.freeLines = 0 ∧ s.bus.env.freeBytes = 0

/-- Power-on under legal parameters meets both invariants of this file. -/
def Obligations.ResetMeetsTheInvariants : Prop :=
  ∀ c : Config, c.valid = true → (State.resetWith c).Kept ∧ (State.resetWith c).OnItsOwn

/-- Whatever the environment answers, the block boots: after INIT and CONFIG it is in `RUN`, Off, with the shadow 0x00
and an idle bus; what INIT found is recorded and changes nothing else (R220, R221, R191). -/
def Obligations.BootReachesRun : Prop :=
  ∀ (c : Config) (e : Env), c.valid = true →
    let s := State.resetWith c
    ∃ t, Host.Core.run Sys2Proof.core 2 { s with bus := { s.bus with env := e } } = .next t ∧
      t.phase = .run ∧ t.state = .off ∧ t.shadow = 0x00 ∧ t.rOk = true ∧ t.bus.idle ∧
      t.rBusfault = !(e.takeLines 2).1.all id

/-! ## Bus Line Control (40_line_control.md) -/

/-- LREL configures its pin as input, appends `REL(L)` and succeeds; nothing else changes (R90). -/
def Obligations.LrelReleasesItsLine : Prop :=
  ∀ s : State,
    exec (.lrel .scl) s = .next { s with
      bus := { s.bus with sclDrv := false, trace := s.bus.trace ++ [.rel .scl] }, rOk := true } ∧
    exec (.lrel .sda) s = .next { s with
      bus := { s.bus with sdaDrv := false, trace := s.bus.trace ++ [.rel .sda] }, rOk := true }

/-- LDRV configures its pin as output driving low, appends `LOW(L)` and succeeds; nothing else changes (R91). -/
def Obligations.LdrvDrivesItsLineLow : Prop :=
  ∀ s : State,
    exec (.ldrv .scl) s = .next { s with
      bus := { s.bus with sclDrv := true, trace := s.bus.trace ++ [.low .scl] }, rOk := true } ∧
    exec (.ldrv .sda) s = .next { s with
      bus := { s.bus with sdaDrv := true, trace := s.bus.trace ++ [.low .sda] }, rOk := true }

/-- LRD of a line the block drives returns 0x00 and consumes no level of the environment; LRD of a released line
returns the environment's next level, zero-extended. Both append `RD(L)=b` and succeed (R92, R95, R97; decision
D37). -/
def Obligations.LrdReadsItsLine : Prop :=
  ∀ (l : Line) (s : State),
    (s.bus.drv l = true → exec (.lrd l) s = .next { s with
      bus := { s.bus with trace := s.bus.trace ++ [.rd l false] }, rData := 0x00, rOk := true }) ∧
    (s.bus.drv l = false →
      let d := s.bus.env.drawLine
      exec (.lrd l) s = .next { s with
        bus := { s.bus with trace := s.bus.trace ++ [.rd l d.1], env := d.2 }
        rData := if d.1 then 0x01 else 0x00
        rOk := true })

/-! ## Protocol Engine (41_protocol_engine.md) -/

/-- INIT releases both lines, reads both, SCL first, and records whether both read high; it advances `phase` from
`BOOT_INIT` only (R101; the line order is decision D17). -/
def Obligations.InitChecksTheIdleBus : Prop :=
  ∀ s : State,
    let c := s.bus.env.drawLine
    let d := c.2.drawLine
    exec .init s = .next { s with
      bus := { sclDrv := false, sdaDrv := false, env := d.2
               trace := s.bus.trace ++
                 [.rel .scl, .wait .tQ, .rel .sda, .wait .tQ, .rd .scl c.1, .rd .sda d.1] }
      rOk := c.1 && d.1
      rBusfault := !(c.1 && d.1)
      phase := if s.phase = .bootInit then .bootConfig else s.phase }

/-- START: the events of `start`, SDA driven low and then SCL, and the address byte; `r_ok` is its acknowledge, SCL is left
driven and SDA released (R103; the delay positions are decision D18). What the events are on the wire is not said here:
they are a start condition from an idle bus only (R103, R230). R104 lets a model refuse START from another bus; that it
runs there too is the model's choice (DESIGN CHOICE, log entry 11). -/
def Obligations.StartSendsTheAddress : Prop :=
  ∀ (d : Byte) (s : State),
    let a := s.bus.env.drawLine
    exec (.start d) s = .next { s with
      bus := { sclDrv := true, sdaDrv := false, env := a.2
               trace := s.bus.trace ++ startEvents ++ byteEvents d a.1 }
      rOk := !a.1 }

/-- RSTART: SDA released, then SCL, then a start (R105; the release order is decision D18). -/
def Obligations.RstartReturnsToIdleThenStarts : Prop :=
  ∀ (d : Byte) (s : State),
    let a := s.bus.env.drawLine
    exec (.rstart d) s = .next { s with
      bus := { sclDrv := true, sdaDrv := false, env := a.2
               trace := s.bus.trace ++ restartEvents ++ byteEvents d a.1 }
      rOk := !a.1 }

/-- STOP drives SDA low, releases SCL, then SDA; it always succeeds and leaves an idle bus (R107). R108 gives it the
precondition SCL driven low; that it runs from any line state is the model's choice (DESIGN CHOICE, log entry 11). -/
def Obligations.StopAlwaysSucceeds : Prop :=
  ∀ s : State,
    exec .stop s = .next { s with
      bus := { s.bus with sclDrv := false, sdaDrv := false
                          trace := s.bus.trace ++ [.low .sda, .wait .tQ, .rel .scl, .wait .tQ, .rel .sda, .wait .tQ] }
      rOk := true }

/-- WRB clocks out the eight bits, bit 7 first, and samples the acknowledge with SDA released: low is ack. SCL is left
driven, SDA released (R109; the delay positions are decision D18). Its events are those the spec counts in R111, by its
own derivation: 55, of which 24 are `WAIT(T_Q)` and 3 `WAIT(T_ACK)`. R109's precondition SCL driven low is not checked
(DESIGN CHOICE, log entry 11). -/
def Obligations.WrbWritesAByte : Prop :=
  ∀ (d : Byte) (s : State),
    let a := s.bus.env.drawLine
    let evs := (msbFirst d).flatMap (fun x =>
        [if x then .rel .sda else .low .sda, .wait .tQ, .rel .scl, .wait .tQ, .low .scl, .wait .tQ]) ++
      [.rel .sda, .wait .tAck, .rel .scl, .wait .tAck, .rd .sda a.1, .low .scl, .wait .tAck]
    exec (.wrb d) s = .next { s with
      bus := { sclDrv := true, sdaDrv := false, env := a.2, trace := s.bus.trace ++ evs }
      rOk := !a.1 } ∧
    evs.length = 55 ∧ evs.count (.wait .tQ) = 24 ∧ evs.count (.wait .tAck) = 3

/-- WRB's clock pulses (R110): for every byte, SDA is set to its bits most significant first at eight rises of SCL and
released at a ninth. Between its waits WRB sets each bit, then raises and lowers SCL once, then releases SDA and raises
SCL, samples SDA and lowers SCL: so every rise is followed by one fall, SDA does not move within a pulse, and the sample
lies in the ninth. -/
def Obligations.WrbClocksItsBitsMsbFirst : Prop :=
  ∀ (d : Byte) (s : State), ∃ t evs, exec (.wrb d) s = .next t ∧ t.bus.trace = s.bus.trace ++ evs ∧
    levelsAtClockRise (!s.bus.sdaDrv) evs = msbFirst d ++ [true] ∧
    evs.count (.rel .scl) = 9 ∧ evs.count (.low .scl) = 9 ∧
    withoutWaits evs =
      (msbFirst d).flatMap (fun x => [if x then .rel .sda else .low .sda, .rel .scl, .low .scl]) ++
        [.rel .sda, .rel .scl, .rd .sda s.bus.env.drawLine.1, .low .scl]

/-- RDB returns the next eight levels as a byte, bit 7 first, and succeeds; SDA is left at the acknowledge level: driven
low unless this is the last byte (R112, R113, R114; the delay positions are decision D18). Its events are those the spec
counts in R115, by its own derivation: 48, of which 17 are `WAIT(T_Q)` and 3 `WAIT(T_ACK)`. R112's precondition SCL
driven low is not checked (DESIGN CHOICE, log entry 11). -/
def Obligations.RdbReadsAByte : Prop :=
  ∀ (last : Bool) (s : State),
    let r := s.bus.env.takeLines 8
    let evs := readEvents r.1 last
    exec (.rdb last) s = .next { s with
      bus := { sclDrv := true, sdaDrv := !last, env := r.2, trace := s.bus.trace ++ evs }
      rData := byteOfLevels r.1
      rOk := true } ∧
    evs.length = 48 ∧ evs.count (.wait .tQ) = 17 ∧ evs.count (.wait .tAck) = 3

/-- A byte frame in either direction is nine pulses of SCL, eight data bits and the acknowledge slot (R83). Written: SDA
carries bit 7 first at the first eight rises and is released at the ninth for the receiver. Read: SDA is released at the
first eight, where the eight samples give the byte bit 7 first, one in each pulse, and at the ninth the block drives it
low when more bytes are wanted and releases it after the last. Between the waits the events are those of the nine pulses
in order: every rise of SCL is followed by its fall, and SDA is set between pulses only. -/
def Obligations.ByteFrameIsNinePulsesMsbFirst : Prop :=
  ∀ (v : Byte) (last : Bool) (s : State),
    (∃ t evs, exec (.wrb v) s = .next t ∧ t.bus.trace = s.bus.trace ++ evs ∧
      levelsAtClockRise (!s.bus.sdaDrv) evs = msbFirst v ++ [true] ∧
      evs.count (.rel .scl) = 9 ∧ evs.count (.low .scl) = 9 ∧
      withoutWaits evs =
        (msbFirst v).flatMap (fun x => [if x then .rel .sda else .low .sda, .rel .scl, .low .scl]) ++
          [.rel .sda, .rel .scl, .rd .sda s.bus.env.drawLine.1, .low .scl]) ∧
    (∃ t evs, exec (.rdb last) s = .next t ∧ t.bus.trace = s.bus.trace ++ evs ∧
      levelsAtClockRise (!s.bus.sdaDrv) evs = List.replicate 8 true ++ [last] ∧
      evs.count (.rel .scl) = 9 ∧ evs.count (.low .scl) = 9 ∧
      (evs.filterMap fun | .rd .sda b => some b | _ => none) = msbFirst t.rData ∧
      withoutWaits evs =
        [.rel .sda] ++ (msbFirst t.rData).flatMap (fun x => [.rel .scl, .rd .sda x, .low .scl]) ++
          [if last then .rel .sda else .low .sda, .rel .scl, .low .scl])

/-- Every transition of INIT to RGPIO, in a transaction or alone, is followed by exactly one `WAIT(T_Q)` or
`WAIT(T_ACK)`, and a read by none (R100; decision D18). A TICK's events are whole transactions of that kind, acknowledged
or not, with the sequencer's waits `T_TICK`, `T_DEBOUNCE` and `T_FAN_SETTLE` between them and nothing else. -/
def Obligations.EveryTransitionSettles : Prop :=
  (∀ (i : Instr) (s t : State), (∀ l, i ≠ .lrel l ∧ i ≠ .ldrv l) → i ≠ .tick → exec i s = .next t →
    ∃ evs, t.bus.trace = s.bus.trace ++ evs ∧ settled evs = true) ∧
  (∀ s t : State, exec .tick s = .next t → ∃ evs, t.bus.trace = s.bus.trace ++ evs ∧ PacedBySequencer evs)

/-! ## Device Register Driver (42_register_driver.md) -/

/-- WREG of an index that is neither reserved by R80 nor, in the index table in force, the GPIO or output-latch register:
the transaction of R131. `r_ok` is the AND of the three acknowledges; under `ABORT` the phases after the first nack
are not sent, under `CONTINUE` all are (R132); the STOP is always sent and leaves an idle bus. The last two
conditions hold by the first under the default table (log entry 6). -/
def Obligations.WregRunsTheWriteTransaction : Prop :=
  ∀ (r : RegIndex) (d : Byte) (s : State), r.toNat ≤ 0x08 →
    r.setWidth 8 ≠ s.cfg.regs.gpio → r.setWidth 8 ≠ s.cfg.regs.olat →
      let a := (s.bus.env.takeLines 3).1
      let n := phasesSent s.cfg.nackPolicy a
      exec (.wreg r d) s = .next { s with
        bus := { sclDrv := false, sdaDrv := false, env := (s.bus.env.takeLines n).2
                 trace := s.bus.trace ++ writeFrame s.cfg (r.setWidth 8) d n a }
        rOk := allAcked a }

/-- RREG of one of the eleven registers: the transaction of R133. All acked, `r_ok` is true and `r_data` the eight
levels after the acknowledges; after any nack `r_ok` is false and `r_data` is the environment's draw `ANY_U8`, not
what was clocked in (R134). An idle bus in every case. -/
def Obligations.RregRunsTheReadTransaction : Prop :=
  ∀ (r : RegIndex) (s : State), r.toNat ≤ 0x0A →
    let a := (s.bus.env.takeLines 3).1
    let e := s.bus.env.afterRead s.cfg.nackPolicy
    let tr := s.bus.trace ++ readFrame s.cfg (r.setWidth 8) s.bus.env
    (allAcked a = true → exec (.rreg r) s = .next { s with
      bus := { sclDrv := false, sdaDrv := false, env := e, trace := tr }
      rData := byteOfLevels s.bus.env.dataLevels
      rOk := true }) ∧
    (allAcked a = false → exec (.rreg r) s = .next { s with
      bus := { sclDrv := false, sdaDrv := false, env := e.drawByte.2, trace := tr }
      rData := e.drawByte.1
      rOk := false })

/-- The operands R80 reserves are refused: an index above 0x0A by WREG and RREG, and by WREG the indices of `REG_GPIO`
and `REG_OLAT`, which would bypass the shadow. The last clause is the model's choice (log entry 6): WREG also refuses
the index the table in force gives to one of those two registers. -/
def Obligations.ReservedRegistersAreRefused : Prop :=
  ∀ (r : RegIndex) (d : Byte) (s : State),
    (0x0A < r.toNat → exec (.wreg r d) s = .refused (.noSuchRegister r) ∧
      exec (.rreg r) s = .refused (.noSuchRegister r)) ∧
    (r = 0x9 ∨ r = 0xA → exec (.wreg r d) s = .refused (.shadowBypass r)) ∧
    (r.toNat ≤ 0x0A → r.setWidth 8 = s.cfg.regs.gpio ∨ r.setWidth 8 = s.cfg.regs.olat →
      exec (.wreg r d) s = .refused (.shadowBypass r))

/-- WGPIO sends the write transaction to the GPIO register and sets the shadow to its operand whatever the
acknowledges were; `r_ok` is their AND (R139, R140). -/
def Obligations.WgpioAlwaysUpdatesTheShadow : Prop :=
  ∀ (d : Byte) (s : State),
    let a := (s.bus.env.takeLines 3).1
    let n := phasesSent s.cfg.nackPolicy a
    exec (.wgpio d) s = .next { s with
      bus := { sclDrv := false, sdaDrv := false, env := (s.bus.env.takeLines n).2
               trace := s.bus.trace ++ writeFrame s.cfg s.cfg.regs.gpio d n a }
      shadow := d
      rOk := allAcked a }

/-- RGPIO is the read transaction on the GPIO register, and leaves the shadow alone (R141, R134). -/
def Obligations.RgpioReadsTheGpioRegister : Prop :=
  ∀ s : State,
    let a := (s.bus.env.takeLines 3).1
    let e := s.bus.env.afterRead s.cfg.nackPolicy
    let tr := s.bus.trace ++ readFrame s.cfg s.cfg.regs.gpio s.bus.env
    (allAcked a = true → exec .rgpio s = .next { s with
      bus := { sclDrv := false, sdaDrv := false, env := e, trace := tr }
      rData := byteOfLevels s.bus.env.dataLevels
      rOk := true }) ∧
    (allAcked a = false → exec .rgpio s = .next { s with
      bus := { sclDrv := false, sdaDrv := false, env := e.drawByte.2, trace := tr }
      rData := e.drawByte.1
      rOk := false })

/-- Whatever the environment answers, CONFIG sends its six register writes in the listed order, the direction register
last, each one issued whatever became of those before it (R136, R138). It ends with `r_ok` true, the shadow 0x00 and
an idle bus, advances `phase` from `BOOT_CONFIG` only, and changes no other register; these ends and the values written
are the spec's decisions D10 to D13 and D21, the frames its decisions D14 and D15. -/
def Obligations.ConfigSendsSixWritesDirectionLast : Prop :=
  ∀ s : State,
    let c := s.cfg
    let w := writeFrames c [(c.regs.iocon, c.cfgIocon), (c.regs.ipol, 0x00), (c.regs.gpinten, 0x00),
      (c.regs.gppu, bit c.pins.switch), (c.regs.gpio, 0x00),
      (c.regs.iodir, bit c.pins.switch ||| bit c.pins.boardUp)] s.bus.env
    exec .config s = .next { s with
      bus := { sclDrv := false, sdaDrv := false, env := w.2, trace := s.bus.trace ++ w.1 }
      shadow := 0x00
      rOk := true
      phase := if s.phase = .bootConfig then .run else s.phase }

/-- A WREG always completes, and `r_ok` is true exactly when no class of R193 names its acknowledges. The class is the
phase of the first nack: the address, the index or the data (R192, R193; the names are decision D38). That the first
nack decides is R195 under `ABORT` and the model's choice under `CONTINUE` (DESIGN CHOICE, log entry 20). -/
def Obligations.WriteFailureClass : Prop :=
  ∀ (r : RegIndex) (d : Byte) (s : State), r.toNat ≤ 0x08 →
    r.setWidth 8 ≠ s.cfg.regs.gpio → r.setWidth 8 ≠ s.cfg.regs.olat →
      let e := s.bus.env
      let cls := writeErrorClass (e.takeLines 3).1
      ∃ t, exec (.wreg r d) s = .next t ∧ (t.rOk = true ↔ cls = none) ∧
        (cls = some .nackAddr ↔ (e.takeLines 1).1 = [true]) ∧
        (cls = some .nackReg ↔ (e.takeLines 2).1 = [false, true]) ∧
        (cls = some .nackData ↔ (e.takeLines 3).1 = [false, false, true])

/-- The frames of R84 as a receiver on an idle bus sees them. WREG under any environment: `S ADDR_W A r A v A P` cut at the
phases sent (R132). RREG of any of the eleven registers under any environment:
`S ADDR_W A r A Sr ADDR_R A d (nack) P` cut at the phases sent, the data byte there exactly when it is reached, and the
STOP always. An acknowledged RREG is the whole frame and returns the byte on the wire. The receiver takes as the level
of a pulse SDA as the block sets or samples it, on a wire that keeps R206's duties: DEDUCED, log entry 17, unsafe if the
expander breaks them (frames: decisions D14 and D15). -/
def Obligations.TransactionFramesOnTheWire : Prop :=
  ∀ s : State, s.bus.idle →
    let c := s.cfg
    let a := (s.bus.env.takeLines 3).1
    let n := phasesSent c.nackPolicy a
    (∀ (r : RegIndex) (d : Byte), r.toNat ≤ 0x08 → r.setWidth 8 ≠ c.regs.gpio → r.setWidth 8 ≠ c.regs.olat →
      ∃ t evs, exec (.wreg r d) s = .next t ∧ t.bus.trace = s.bus.trace ++ evs ∧
        wireSymbols evs = [.start] ++
          ([WireSymbol.byte c.addrW (a.getD 0 true), .byte (r.setWidth 8) (a.getD 1 true),
            .byte d (a.getD 2 true)].take n) ++ [.stop]) ∧
    (∀ r : RegIndex, r.toNat ≤ 0x0A →
      (∃ t evs, exec (.rreg r) s = .next t ∧ t.bus.trace = s.bus.trace ++ evs ∧
        wireSymbols evs = [.start] ++
          ([WireSymbol.byte c.addrW (a.getD 0 true), .byte (r.setWidth 8) (a.getD 1 true)].take n) ++
          (if n = 3 then [.start, .byte c.addrR (a.getD 2 true)] else []) ++
          (if dataReached c.nackPolicy a then [.byte (byteOfLevels s.bus.env.dataLevels) true] else []) ++ [.stop]) ∧
      (∀ v rest, ∃ t evs, exec (.rreg r) (s.scripted (ackedRead v ++ rest)) = .next t ∧
        t.bus.trace = s.bus.trace ++ evs ∧ t.rData = v ∧
        wireSymbols evs = [.start, .byte c.addrW false, .byte (r.setWidth 8) false, .start,
          .byte c.addrR false, .byte v true, .stop]))

/-- Round trip with an echoing device (R143): after an acknowledged WREG, a device that takes its writes from the wire
and answers an RREG of the same index with what it then holds makes RREG return the value written; the same for WGPIO
and RGPIO. The index is one WREG admits under the table in force (log entry 6). The device reads the wire through the
receiver of log entry 17 (DEDUCED, unsafe if the expander breaks R206's duties). -/
def Obligations.EchoingDeviceRoundTrip : Prop :=
  ∀ (v : Byte) (s : State) (regs : Byte → Byte) (rest : List Bool), s.bus.idle →
    let echo := fun (w rd : Instr) (r : Byte) =>
      ∃ t evs, exec w (s.scripted (ackedWrite ++ rest)) = .next t ∧ t.bus.trace = s.bus.trace ++ evs ∧ t.rOk = true ∧
        ∃ u, exec rd (t.scripted (ackedRead
            (deviceAfter (deviceWrites s.cfg.addrW (wireSymbols evs)) regs r) ++ rest)) = .next u ∧
          u.rOk = true ∧ u.rData = v
    (∀ r : RegIndex, r.toNat ≤ 0x08 → r.setWidth 8 ≠ s.cfg.regs.gpio → r.setWidth 8 ≠ s.cfg.regs.olat →
      echo (.wreg r v) (.rreg r) (r.setWidth 8)) ∧
    echo (.wgpio v) .rgpio s.cfg.regs.gpio

/-- CONFIG is idempotent on a device's registers (R137): two acknowledged CONFIGs in succession leave the register
file that one leaves. The device takes its writes through the receiver of log entry 17 (DEDUCED, unsafe if the expander
breaks R206's duties). -/
def Obligations.ConfigIsIdempotentOnTheDevice : Prop :=
  ∀ (s : State) (rest : List Bool) (regs : Byte → Byte), s.bus.idle →
    ∃ t u evs evs', exec .config (s.scripted (List.replicate 18 false ++ (List.replicate 18 false ++ rest))) = .next t ∧
      t.bus.trace = s.bus.trace ++ evs ∧ exec .config t = .next u ∧ u.bus.trace = s.bus.trace ++ evs' ∧
      (deviceWrites s.cfg.addrW (wireSymbols evs)).length = 6 ∧
      deviceAfter (deviceWrites s.cfg.addrW (wireSymbols evs')) regs =
        deviceAfter (deviceWrites s.cfg.addrW (wireSymbols evs)) regs

/-! ## Power Sequencer (43_power_sequencer.md) -/

/-- The LED table of R151; an LED value never has a bit outside `LED_MASK` (decision D25). -/
def Obligations.LedTable : Prop :=
  ∀ (c : Config) (ph : Bool),
    led c .off ph = bit c.pins.red ∧
    led c .poweringUp false = 0x00 ∧ led c .poweringUp true = bit c.pins.green ∧
    led c .on ph = bit c.pins.green ∧
    led c .powerDownRequested false = 0x00 ∧ led c .powerDownRequested true = bit c.pins.red ∧
    led c .powerDownWait ph = bit c.pins.red ||| bit c.pins.blue ∧
    ∀ st, led c st ph &&& ~~~(bit c.pins.red ||| bit c.pins.green ||| bit c.pins.blue) = 0

/-- A TICK completes from every state but one whose countdown ends in it, whatever the environment answers: `r_ok` is
true, `r_data`, `r_busfault`, `phase`, the parameters and the pending words stay, the guard timer is not touched and
the bus is idle (R150, R176). -/
def Obligations.TickCompletes : Prop :=
  ∀ s : State, (s.state ≠ .powerDownWait ∨ s.countdown ≠ 1) →
    ∃ t, exec .tick s = .next t ∧ t.rOk = true ∧ t.rData = s.rData ∧ t.rBusfault = s.rBusfault ∧
      t.phase = s.phase ∧ t.cfg = s.cfg ∧ t.pending = s.pending ∧ t.guardCnt = s.guardCnt ∧ t.bus.idle

/-- A TICK answers a next state, or it is stuck in the guard loop after the power cut: nothing else stops it
(R174, R190, R233). R174 calls a loop that does not end a hang, not a fault; that the model answers the fault
`guardLoopHang` after a bounded number of passes is its choice (DESIGN CHOICE, log entry 4). -/
def Obligations.TickIsStuckOnlyInTheGuardLoop : Prop :=
  ∀ s : State, (∃ t, exec .tick s = .next t) ∨
    (exec .tick s = .fault .guardLoopHang ∧ s.state = .powerDownWait ∧ s.countdown = 1)

/-- The blink timer advances first in every TICK in every state: it counts to `N_BLINK`, then starts again at 0 and
toggles the phase (R152, decision D24). -/
def Obligations.TickAdvancesTheBlinkTimer : Prop :=
  ∀ s t : State, exec .tick s = .next t → s.blinkCnt < s.cfg.nBlink →
    (s.blinkCnt.toNat + 1 = s.cfg.nBlink.toNat → t.blinkCnt = 0 ∧ t.blinkPhase = !s.blinkPhase) ∧
    (s.blinkCnt.toNat + 1 ≠ s.cfg.nBlink.toNat →
      t.blinkCnt.toNat = s.blinkCnt.toNat + 1 ∧ t.blinkPhase = s.blinkPhase)

/-- Every TICK begins with exactly one render write, issued before any sample also when its value equals the shadow,
and ends with `WAIT(T_TICK)` (R150, R153, R175, R229). -/
def Obligations.TickRendersFirstAndWaitsLast : Prop :=
  ∀ s t : State, exec .tick s = .next t →
    let a := (s.bus.env.takeLines 3).1
    ∃ evs, t.bus.trace = s.bus.trace ++
      writeFrame s.cfg s.cfg.regs.gpio s.rendered (phasesSent s.cfg.nackPolicy a) a ++ evs ++ [.wait .tTick]

/-- A dropped GPIO write heals within one tick (R231): whatever became of a WGPIO of `d`, the next TICK begins with the
render write, and if that is acknowledged a device at `ADDR_W` then holds in its GPIO register `d` with the LED bits
replaced. The device takes its writes through the receiver of log entry 17 (DEDUCED, unsafe if the expander breaks R206's
duties). -/
def Obligations.DroppedWriteHealsInOneTick : Prop :=
  ∀ (d : Byte) (s u t : State) (rest : List Bool) (regs : Byte → Byte), exec (.wgpio d) s = .next u →
    exec .tick (u.scripted (ackedWrite ++ rest)) = .next t →
      let render := gpioWriteFrame s.cfg u.rendered
      (∃ evs, t.bus.trace = u.bus.trace ++ render ++ evs) ∧
        deviceAfter (deviceWrites s.cfg.addrW (wireSymbols render)) regs s.cfg.regs.gpio =
          (d &&& ~~~(bit s.cfg.pins.red ||| bit s.cfg.pins.green ||| bit s.cfg.pins.blue)) |||
            led s.cfg s.state s.blinkAdvance.blinkPhase

/-- The LED bits a TICK leaves in the shadow are those of its render: no evaluation writes an LED bit (R154). -/
def Obligations.EvaluationNeverWritesAnLedBit : Prop :=
  ∀ s t : State, s.cfg.valid = true → exec .tick s = .next t →
    t.shadow &&& s.cfg.ledMask = led s.cfg s.state s.blinkAdvance.blinkPhase

/-- The transition table of R177: whatever the environment answers, a TICK takes at most one transition, one of the
table's, with its side effects on the shadow and the countdown. -/
def Obligations.TickTakesOneTransitionOfTheTable : Prop :=
  ∀ s t : State, exec .tick s = .next t →
    let stays := t.state = s.state ∧ t.shadow = s.rendered
    match s.state with
    | .off => t.countdown = s.countdown ∧
        (stays ∨ (t.state = .poweringUp ∧ t.shadow = s.rendered ||| s.cfg.mFan ||| s.cfg.mDc))
    | .poweringUp => t.countdown = s.countdown ∧ (stays ∨ (t.state = .on ∧ t.shadow = s.rendered))
    | .on =>
        (stays ∧ t.countdown = s.countdown) ∨
        (t.state = .powerDownWait ∧ t.shadow = s.rendered &&& ~~~s.cfg.mPdReq ∧ t.countdown = s.cfg.nShutdown) ∨
        (t.state = .powerDownRequested ∧ t.shadow = s.rendered ||| s.cfg.mPdReq ∧ t.countdown = s.countdown)
    | .powerDownRequested =>
        (stays ∧ t.countdown = s.countdown) ∨
        (t.state = .powerDownWait ∧ t.shadow = s.rendered &&& ~~~s.cfg.mPdReq ∧ t.countdown = s.cfg.nShutdown)
    | .powerDownWait => t.countdown = s.countdown - 1 ∧
        ((s.countdown ≠ 1 ∧ stays) ∨
          (s.countdown = 1 ∧ t.state = .off ∧ t.shadow = s.rendered &&& ~~~s.cfg.mDc &&& ~~~s.cfg.mFan ∧
            t.guardCnt = 0))

/-- Off, with acknowledged transactions: a first sample not pressed, or a second one not pressed, leaves Off; two
pressed samples `T_DEBOUNCE` apart power up, fan first, then the settle wait, then the board supply (R158, R159,
R161; the debounce inside one TICK is the spec's decision D26). -/
def Obligations.OffPowersUpOnAConfirmedPress : Prop :=
  ∀ (s : State) (v v' : Byte) (rest : List Bool), s.state = .off →
    let c := s.cfg
    let rv := s.rendered
    let head := gpioWriteFrame c rv ++ sampleFrame c v
    let both := head ++ [.wait .tDebounce] ++ sampleFrame c v'
    (¬ switchPressed c v →
      exec .tick (s.scripted (ackedWrite ++ ackedRead v ++ rest)) =
        .next (s.tickEnd head rest rv .off s.countdown)) ∧
    (switchPressed c v → ¬ switchPressed c v' →
      exec .tick (s.scripted (ackedWrite ++ ackedRead v ++ ackedRead v' ++ rest)) =
        .next (s.tickEnd both rest rv .off s.countdown)) ∧
    (switchPressed c v → switchPressed c v' →
      exec .tick (s.scripted (ackedWrite ++ ackedRead v ++ ackedRead v' ++ ackedWrite ++ ackedWrite ++ rest)) =
        .next (s.tickEnd (both ++ gpioWriteFrame c (rv ||| c.mFan) ++ [.wait .tFanSettle] ++
            gpioWriteFrame c (rv ||| c.mFan ||| c.mDc)) rest (rv ||| c.mFan ||| c.mDc) .poweringUp s.countdown))

/-- PoweringUp, with acknowledged transactions: two samples with the board up lead to On and change no output; any
other pair leaves PoweringUp, whatever the switch (R162, R163). -/
def Obligations.PoweringUpWaitsForTheBoard : Prop :=
  ∀ (s : State) (v v' : Byte) (rest : List Bool), s.state = .poweringUp →
    let c := s.cfg
    let rv := s.rendered
    let head := gpioWriteFrame c rv ++ sampleFrame c v
    let both := head ++ [.wait .tDebounce] ++ sampleFrame c v'
    (¬ boardIsUp c v →
      exec .tick (s.scripted (ackedWrite ++ ackedRead v ++ rest)) =
        .next (s.tickEnd head rest rv .poweringUp s.countdown)) ∧
    (boardIsUp c v → ¬ boardIsUp c v' →
      exec .tick (s.scripted (ackedWrite ++ ackedRead v ++ ackedRead v' ++ rest)) =
        .next (s.tickEnd both rest rv .poweringUp s.countdown)) ∧
    (boardIsUp c v → boardIsUp c v' →
      exec .tick (s.scripted (ackedWrite ++ ackedRead v ++ ackedRead v' ++ rest)) =
        .next (s.tickEnd both rest rv .on s.countdown))

/-- On, with acknowledged transactions: the board-down condition comes first and, confirmed, clears the request, loads
the countdown and enters PowerDownWait whatever the switch; a board down once only, and a switch not confirmed
released with the board still up, change nothing; a confirmed release with the board up on both samples asserts the
request (R164, R165; the priority is the spec's decision D27). -/
def Obligations.OnWatchesBoardThenSwitch : Prop :=
  ∀ (s : State) (v v' : Byte) (rest : List Bool), s.state = .on →
    let c := s.cfg
    let rv := s.rendered
    let head := gpioWriteFrame c rv ++ sampleFrame c v
    let both := head ++ [.wait .tDebounce] ++ sampleFrame c v'
    let one := ackedWrite ++ ackedRead v
    let two := one ++ ackedRead v'
    (¬ boardIsUp c v → ¬ boardIsUp c v' →
      exec .tick (s.scripted (two ++ ackedWrite ++ rest)) =
        .next (s.tickEnd (both ++ gpioWriteFrame c (rv &&& ~~~c.mPdReq)) rest (rv &&& ~~~c.mPdReq) .powerDownWait
          c.nShutdown)) ∧
    (¬ boardIsUp c v → boardIsUp c v' →
      exec .tick (s.scripted (two ++ rest)) = .next (s.tickEnd both rest rv .on s.countdown)) ∧
    (boardIsUp c v → switchPressed c v →
      exec .tick (s.scripted (one ++ rest)) = .next (s.tickEnd head rest rv .on s.countdown)) ∧
    (boardIsUp c v → ¬ switchPressed c v → (switchPressed c v' ∨ ¬ boardIsUp c v') →
      exec .tick (s.scripted (two ++ rest)) = .next (s.tickEnd both rest rv .on s.countdown)) ∧
    (boardIsUp c v → ¬ switchPressed c v → ¬ switchPressed c v' → boardIsUp c v' →
      exec .tick (s.scripted (two ++ ackedWrite ++ rest)) =
        .next (s.tickEnd (both ++ gpioWriteFrame c (rv ||| c.mPdReq)) rest (rv ||| c.mPdReq) .powerDownRequested
          s.countdown))

/-- PowerDownRequested, with acknowledged transactions: two samples with the board down clear the request, load the
countdown and enter PowerDownWait; any other pair changes nothing, whatever the switch (R167, R168). -/
def Obligations.PowerDownRequestedWaitsForTheBoard : Prop :=
  ∀ (s : State) (v v' : Byte) (rest : List Bool), s.state = .powerDownRequested →
    let c := s.cfg
    let rv := s.rendered
    let head := gpioWriteFrame c rv ++ sampleFrame c v
    let both := head ++ [.wait .tDebounce] ++ sampleFrame c v'
    (boardIsUp c v →
      exec .tick (s.scripted (ackedWrite ++ ackedRead v ++ rest)) =
        .next (s.tickEnd head rest rv .powerDownRequested s.countdown)) ∧
    (¬ boardIsUp c v → boardIsUp c v' →
      exec .tick (s.scripted (ackedWrite ++ ackedRead v ++ ackedRead v' ++ rest)) =
        .next (s.tickEnd both rest rv .powerDownRequested s.countdown)) ∧
    (¬ boardIsUp c v → ¬ boardIsUp c v' →
      exec .tick (s.scripted (ackedWrite ++ ackedRead v ++ ackedRead v' ++ ackedWrite ++ rest)) =
        .next (s.tickEnd (both ++ gpioWriteFrame c (rv &&& ~~~c.mPdReq)) rest (rv &&& ~~~c.mPdReq) .powerDownWait
          c.nShutdown))

/-- PowerDownWait before the end of its countdown, whatever the environment answers: the TICK renders, counts down by one,
takes no sample and stays (R169, R170). -/
def Obligations.PowerDownWaitCountsDown : Prop :=
  ∀ s : State, s.state = .powerDownWait → s.countdown ≠ 1 →
    let a := (s.bus.env.takeLines 3).1
    let n := phasesSent s.cfg.nackPolicy a
    exec .tick s = .next { s.blinkAdvance with
      bus := { sclDrv := false, sdaDrv := false, env := (s.bus.env.takeLines n).2
               trace := s.bus.trace ++ writeFrame s.cfg s.cfg.regs.gpio s.rendered n a ++ [.wait .tTick] }
      shadow := s.rendered
      countdown := s.countdown - 1
      rOk := true }

/-- The end of the countdown, with acknowledged transactions: the board supply is cut, then the fan, then the guard
loop takes one sample and one tick wait at a time, re-armed by every pressed one, until the timer reaches 0; only
then Off (R170, R172; the cut order is decision D30, the loop's mechanism decision D31). -/
def Obligations.PowerCutThenGuardThenOff : Prop :=
  ∀ (s : State) (samples : List Byte) (rest : List Bool), s.state = .powerDownWait → s.countdown = 1 →
    guardTimer s.cfg.nGuard s.cfg.nGuard (samples.map fun v => !v.getLsbD s.cfg.pins.switch.toNat) = some 0 →
      let c := s.cfg
      let rv := s.rendered
      exec .tick (s.scripted (ackedWrite ++ ackedWrite ++ ackedWrite ++ samples.flatMap ackedRead ++ rest)) =
        .next { s.tickEnd (gpioWriteFrame c rv ++ gpioWriteFrame c (rv &&& ~~~c.mDc) ++
            gpioWriteFrame c (rv &&& ~~~c.mDc &&& ~~~c.mFan) ++
            samples.flatMap (fun v => sampleFrame c v ++ [.wait .tTick])) rest
            (rv &&& ~~~c.mDc &&& ~~~c.mFan) .off 0 with guardCnt := 0 }

/-- Two failed reads can power the block up, and one can only cancel it (R180, 90_conflicts.md C6). In Off under `ABORT`:
with every byte nacked, two drawn bytes that read pressed take the transition the true switch may not justify, and one
that reads released cancels it; and one failed read beside an acknowledged sample that reads released leaves Off,
whatever byte it draws and whichever of the two comes first. -/
def Obligations.FailedReadsCanTakeATransition : Prop :=
  ∀ (s : State) (v v' : Byte) (bytes : List Byte), s.state = .off → s.cfg.nackPolicy = .abort →
    let tick := fun (levels : List Bool) (drawn : List Byte) => exec .tick { s with
      bus := { s.bus with env := { s.bus.env with lineDraws := levels, byteDraws := drawn } } }
    (∃ t, tick (List.replicate 5 true) (v :: v' :: bytes) = .next t ∧
      (switchPressed s.cfg v → switchPressed s.cfg v' → t.state = .poweringUp) ∧
      (¬ switchPressed s.cfg v ∨ ¬ switchPressed s.cfg v' → t.state = .off)) ∧
    ∀ (good : Byte) (rest : List Bool), ¬ switchPressed s.cfg good →
      (∃ t, tick ([true, true] ++ ackedRead good ++ rest) (v :: bytes) = .next t ∧ t.state = .off) ∧
      (∃ t, tick ([true] ++ ackedRead good ++ [true] ++ rest) (v :: bytes) = .next t ∧ t.state = .off)

/-! ## Wait times (70_reset_and_hazards.md R235) -/

/-- The sum of the waits of each command of the Protocol Engine (R235). -/
def Obligations.EngineWaitTimes : Prop :=
  ∀ (i : Instr) (s t : State), exec i s = .next t → ∃ evs, t.bus.trace = s.bus.trace ++ evs ∧
    let q := s.cfg.tQ
    let a := s.cfg.tAck
    (∀ l, i = .lrel l ∨ i = .ldrv l ∨ i = .lrd l → waitTime s.cfg evs = 0) ∧
    (i = .init → waitTime s.cfg evs = 2 * q) ∧
    (∀ d, i = .wrb d → waitTime s.cfg evs = 24 * q + 3 * a) ∧
    (∀ f, i = .rdb f → waitTime s.cfg evs = 17 * q + 3 * a) ∧
    (∀ d, i = .start d → waitTime s.cfg evs = 26 * q + 3 * a) ∧
    (∀ d, i = .rstart d → waitTime s.cfg evs = 28 * q + 3 * a) ∧
    (i = .stop → waitTime s.cfg evs = 3 * q)

/-- The sum of the waits of each transaction of the driver: all acked, under `CONTINUE`, or nacked at the address under
`ABORT`; and of an acknowledged CONFIG (R235). -/
def Obligations.DriverWaitTimes : Prop :=
  ∀ (i : Instr) (s t : State), exec i s = .next t → ∃ evs, t.bus.trace = s.bus.trace ++ evs ∧
    let q := s.cfg.tQ
    let a := s.cfg.tAck
    let acks := (s.bus.env.takeLines 3).1
    let whole := allAcked acks = true ∨ s.cfg.nackPolicy = .continueAll
    ((∃ d, i = .wgpio d ∨ ∃ r, i = .wreg r d) →
      (whole → waitTime s.cfg evs = 77 * q + 9 * a) ∧
      (s.cfg.nackPolicy = .abort → acks.head? = some true → waitTime s.cfg evs = 29 * q + 3 * a)) ∧
    ((i = .rgpio ∨ ∃ r, i = .rreg r) → whole → waitTime s.cfg evs = 98 * q + 12 * a) ∧
    (i = .config → (s.bus.env.takeLines 18).1 = List.replicate 18 false →
      waitTime s.cfg evs = 462 * q + 54 * a)

/-- The sum of the waits of a TICK whose transactions are all acknowledged, on the four paths R235 lists; the guard loop
takes at least `N_GUARD` samples. -/
def Obligations.TickWaitTimes : Prop :=
  ∀ (s : State) (rest : List Bool),
    let c := s.cfg
    let w := 77 * c.tQ + 9 * c.tAck
    let r := 98 * c.tQ + 12 * c.tAck
    let tick := c.duration .tTick
    let takes := fun (levels : List Bool) (time : Nat) => ∃ t evs, exec .tick (s.scripted (levels ++ rest)) = .next t ∧
      t.bus.trace = s.bus.trace ++ evs ∧ waitTime c evs = time
    (s.state = .off → ∀ v, ¬ switchPressed c v → takes (ackedWrite ++ ackedRead v) (w + r + tick)) ∧
    (s.state = .off → ∀ v v', switchPressed c v → switchPressed c v' →
      takes (ackedWrite ++ ackedRead v ++ ackedRead v' ++ ackedWrite ++ ackedWrite)
        (3 * w + 2 * r + c.duration .tDebounce + c.duration .tFanSettle + tick)) ∧
    (s.state = .powerDownWait → s.countdown ≠ 1 → takes ackedWrite (w + tick)) ∧
    (s.state = .powerDownWait → s.countdown = 1 → ∀ samples : List Byte,
      guardTimer c.nGuard c.nGuard (samples.map fun v => !v.getLsbD c.pins.switch.toNat) = some 0 →
        c.nGuard.toNat ≤ samples.length ∧
          takes (ackedWrite ++ ackedWrite ++ ackedWrite ++ samples.flatMap ackedRead)
            (3 * w + samples.length * (r + tick) + tick))

/-! ## The whole machine -/

/-- Which commands write each field (the table of R37): every field a command's column leaves blank or marks R is
unchanged by it; the parameters and the pending words are unchanged by all. -/
def Obligations.EachCommandWritesItsFieldsOnly : Prop :=
  ∀ (i : Instr) (s t : State), exec i s = .next t →
    t.cfg = s.cfg ∧ t.pending = s.pending ∧
    ((∃ l, i = .lrd l) → t.bus.sclDrv = s.bus.sclDrv ∧ t.bus.sdaDrv = s.bus.sdaDrv) ∧
    ((∀ l, i ≠ .lrd l) → (∀ f, i ≠ .rdb f) → (∀ r, i ≠ .rreg r) → i ≠ .rgpio → t.rData = s.rData) ∧
    (i ≠ .init → t.rBusfault = s.rBusfault) ∧
    (i ≠ .init → i ≠ .config → t.phase = s.phase) ∧
    (i ≠ .config → (∀ d, i ≠ .wgpio d) → i ≠ .tick → t.shadow = s.shadow) ∧
    (i ≠ .tick → t.state = s.state ∧ t.blinkCnt = s.blinkCnt ∧ t.blinkPhase = s.blinkPhase ∧
      t.countdown = s.countdown ∧ t.guardCnt = s.guardCnt)

/-- The phase never goes back, and `RUN` is never left (R25). -/
def Obligations.PhaseNeverGoesBack : Prop :=
  ∀ s t : State, step s = .next t → s.phase.code ≤ t.phase.code ∧ t.phase.code ≤ s.phase.code + 1

/-- The trace is append-only and holds no information the block reads back (R33): from two states that differ in their
traces only, a step appends the same events and is otherwise the same. -/
def Obligations.TraceIsNeverReadBack : Prop :=
  ∀ (s t : State) (tr : List Event), step s = .next t →
    ∃ evs, t.bus.trace = s.bus.trace ++ evs ∧
      step { s with bus := { s.bus with trace := tr } } =
        .next { t with bus := { t.bus with trace := tr ++ evs } }

/-- Every step, whatever command it runs, keeps the record legal: the parameters (R11), the counters in their ranges
(R30 to R32), the guard timer 0 between commands (R32), and a countdown that has not run out in PowerDownWait (R170,
R181). -/
def Obligations.EveryStepKeepsTheRecord : Prop :=
  ∀ s t : State, s.Kept → step s = .next t → t.Kept

/-- On its own, the block keeps an idle bus between commands, stays Off until it has booted, and holds in the shadow
the outputs of its sequencer state: fan and supply on exactly outside Off, so never the supply without the fan, the
power-down request exactly in PowerDownRequested, the input bits never (R178 for the shadow, R161, R104, R139). -/
def Obligations.OnItsOwnTheOutputsMatchTheState : Prop :=
  ∀ s t : State, s.OnItsOwn → step s = .next t → t.OnItsOwn

/-- On its own and before the power cut, the block never stops: from every state it keeps, a step answers a next state
unless it runs the guard loop (R190, R234), which the model may answer with the fault `guardLoopHang` (DESIGN CHOICE, log
entry 4). -/
def Obligations.OnItsOwnItNeverStopsBeforeTheGuard : Prop :=
  ∀ s : State, s.OnItsOwn → (s.state ≠ .powerDownWait ∨ s.countdown ≠ 1) → ∃ t, step s = .next t
end

