-- ==== Sys2Proof/Laws/State.lean ====
section
/-! SUPPORT. One lemma per field per named update of the bus and of the state. -/

namespace Sys2Proof.Machine

open Sys2Proof

section Bus

variable (b : Bus) (l : Line) (d : Delay) (ev : Event) (v : Bool)

@[simp] theorem Bus.emit_sclDrv : (b.emit ev).sclDrv = b.sclDrv := rfl
@[simp] theorem Bus.emit_sdaDrv : (b.emit ev).sdaDrv = b.sdaDrv := rfl
@[simp] theorem Bus.emit_trace : (b.emit ev).trace = b.trace ++ [ev] := rfl
@[simp] theorem Bus.emit_env : (b.emit ev).env = b.env := rfl

@[simp] theorem Bus.wait_sclDrv : (b.wait d).sclDrv = b.sclDrv := rfl
@[simp] theorem Bus.wait_sdaDrv : (b.wait d).sdaDrv = b.sdaDrv := rfl
@[simp] theorem Bus.wait_trace : (b.wait d).trace = b.trace ++ [.wait d] := rfl
@[simp] theorem Bus.wait_env : (b.wait d).env = b.env := rfl

@[simp] theorem Bus.setDrv_trace : (b.setDrv l v).trace = b.trace := by cases l <;> rfl
@[simp] theorem Bus.setDrv_env : (b.setDrv l v).env = b.env := by cases l <;> rfl
@[simp] theorem Bus.drv_setDrv : (b.setDrv l v).drv l = v := by cases l <;> rfl

@[simp] theorem Bus.release_trace : (b.release l).trace = b.trace ++ [.rel l] := by cases l <;> rfl
@[simp] theorem Bus.release_env : (b.release l).env = b.env := by cases l <;> rfl
@[simp] theorem Bus.release_scl_sclDrv : (b.release .scl).sclDrv = false := rfl
@[simp] theorem Bus.release_scl_sdaDrv : (b.release .scl).sdaDrv = b.sdaDrv := rfl
@[simp] theorem Bus.release_sda_sclDrv : (b.release .sda).sclDrv = b.sclDrv := rfl
@[simp] theorem Bus.release_sda_sdaDrv : (b.release .sda).sdaDrv = false := rfl

@[simp] theorem Bus.driveLow_trace : (b.driveLow l).trace = b.trace ++ [.low l] := by cases l <;> rfl
@[simp] theorem Bus.driveLow_env : (b.driveLow l).env = b.env := by cases l <;> rfl
@[simp] theorem Bus.driveLow_scl_sclDrv : (b.driveLow .scl).sclDrv = true := rfl
@[simp] theorem Bus.driveLow_scl_sdaDrv : (b.driveLow .scl).sdaDrv = b.sdaDrv := rfl
@[simp] theorem Bus.driveLow_sda_sclDrv : (b.driveLow .sda).sclDrv = b.sclDrv := rfl
@[simp] theorem Bus.driveLow_sda_sdaDrv : (b.driveLow .sda).sdaDrv = true := rfl

end Bus

section State

variable (s : State) (f : Bus → Bus) (ok : Bool) (v : Byte)

@[simp] theorem State.onBus_bus : (s.onBus f).bus = f s.bus := rfl
@[simp] theorem State.onBus_rOk : (s.onBus f).rOk = s.rOk := rfl
@[simp] theorem State.onBus_rData : (s.onBus f).rData = s.rData := rfl
@[simp] theorem State.onBus_rBusfault : (s.onBus f).rBusfault = s.rBusfault := rfl
@[simp] theorem State.onBus_phase : (s.onBus f).phase = s.phase := rfl
@[simp] theorem State.onBus_shadow : (s.onBus f).shadow = s.shadow := rfl
@[simp] theorem State.onBus_state : (s.onBus f).state = s.state := rfl
@[simp] theorem State.onBus_blinkCnt : (s.onBus f).blinkCnt = s.blinkCnt := rfl
@[simp] theorem State.onBus_blinkPhase : (s.onBus f).blinkPhase = s.blinkPhase := rfl
@[simp] theorem State.onBus_countdown : (s.onBus f).countdown = s.countdown := rfl
@[simp] theorem State.onBus_guardCnt : (s.onBus f).guardCnt = s.guardCnt := rfl
@[simp] theorem State.onBus_cfg : (s.onBus f).cfg = s.cfg := rfl
@[simp] theorem State.onBus_pending : (s.onBus f).pending = s.pending := rfl

@[simp] theorem State.finish_bus : (s.finish ok).bus = s.bus := rfl
@[simp] theorem State.finish_rOk : (s.finish ok).rOk = ok := rfl
@[simp] theorem State.finish_rData : (s.finish ok).rData = s.rData := rfl
@[simp] theorem State.finish_rBusfault : (s.finish ok).rBusfault = s.rBusfault := rfl
@[simp] theorem State.finish_phase : (s.finish ok).phase = s.phase := rfl
@[simp] theorem State.finish_shadow : (s.finish ok).shadow = s.shadow := rfl
@[simp] theorem State.finish_state : (s.finish ok).state = s.state := rfl
@[simp] theorem State.finish_blinkCnt : (s.finish ok).blinkCnt = s.blinkCnt := rfl
@[simp] theorem State.finish_blinkPhase : (s.finish ok).blinkPhase = s.blinkPhase := rfl
@[simp] theorem State.finish_countdown : (s.finish ok).countdown = s.countdown := rfl
@[simp] theorem State.finish_guardCnt : (s.finish ok).guardCnt = s.guardCnt := rfl
@[simp] theorem State.finish_cfg : (s.finish ok).cfg = s.cfg := rfl
@[simp] theorem State.finish_pending : (s.finish ok).pending = s.pending := rfl

@[simp] theorem State.finishData_bus : (s.finishData ok v).bus = s.bus := rfl
@[simp] theorem State.finishData_rOk : (s.finishData ok v).rOk = ok := rfl
@[simp] theorem State.finishData_rData : (s.finishData ok v).rData = v := rfl
@[simp] theorem State.finishData_rBusfault : (s.finishData ok v).rBusfault = s.rBusfault := rfl
@[simp] theorem State.finishData_phase : (s.finishData ok v).phase = s.phase := rfl
@[simp] theorem State.finishData_shadow : (s.finishData ok v).shadow = s.shadow := rfl
@[simp] theorem State.finishData_state : (s.finishData ok v).state = s.state := rfl
@[simp] theorem State.finishData_blinkCnt : (s.finishData ok v).blinkCnt = s.blinkCnt := rfl
@[simp] theorem State.finishData_blinkPhase : (s.finishData ok v).blinkPhase = s.blinkPhase := rfl
@[simp] theorem State.finishData_countdown : (s.finishData ok v).countdown = s.countdown := rfl
@[simp] theorem State.finishData_guardCnt : (s.finishData ok v).guardCnt = s.guardCnt := rfl
@[simp] theorem State.finishData_cfg : (s.finishData ok v).cfg = s.cfg := rfl
@[simp] theorem State.finishData_pending : (s.finishData ok v).pending = s.pending := rfl

end State

end Sys2Proof.Machine
end

