-- ==== Sys2Proof/Laws/Bus.lean ====
section
/-! SUPPORT. What each operation of the Protocol Engine and of the driver's transactions does to the bus, once: its
result, the lines it leaves, the events it appends and the draws it consumes. -/

namespace Sys2Proof.Machine

open Sys2Proof

/-- A driven line reads 0 and consumes no draw (R97). -/
theorem Bus.read_driven (l : Line) (b : Bus) (h : b.drv l = true) :
    b.read l = (false, b.emit (.rd l false)) := by
  simp [Bus.read, Bus.level, h]

/-- A released line reads the environment's next level (R95). -/
theorem Bus.read_released (l : Line) (b : Bus) (h : b.drv l = false) :
    b.read l = (b.env.drawLine.1,
      { b with env := b.env.drawLine.2, trace := b.trace ++ [.rd l b.env.drawLine.1] }) := by
  simp [Bus.read, Bus.level, h, Bus.emit]

theorem Bus.sendBit_spec (x : Bool) (b : Bus) :
    b.sendBit x = { b with sclDrv := true, sdaDrv := !x, trace := b.trace ++ bitEvents x } := by
  cases x <;>
    simp [Bus.sendBit, Bus.putWait, Bus.releaseWait, Bus.driveLowWait, Bus.release, Bus.driveLow, Bus.setDrv,
      Bus.wait, Bus.emit, bitEvents, setEvent]

theorem Bus.sendBits_spec (v : Byte) (b : Bus) :
    b.sendBits 8 v = { b with
      sclDrv := true, sdaDrv := !v.getLsbD 0, trace := b.trace ++ (msbFirst v).flatMap bitEvents } := by
  simp [Bus.sendBits, Bus.sendBit_spec, msbFirst]

/-- `write_byte` (R109): the acknowledge is the one level drawn; SCL is left driven, SDA released. -/
theorem Bus.writeByte_spec (v : Byte) (b : Bus) :
    b.writeByte v = (!b.env.drawLine.1,
      { sclDrv := true, sdaDrv := false, trace := b.trace ++ byteEvents v b.env.drawLine.1,
        env := b.env.drawLine.2 }) := by
  simp [Bus.writeByte, Bus.sendBits_spec, Bus.openAckSlot, Bus.releaseWait, Bus.driveLowWait, Bus.release,
    Bus.driveLow, Bus.setDrv, Bus.wait, Bus.emit, Bus.read, Bus.level, Bus.drv, ackOf, byteEvents]

theorem Bus.receiveBit_spec (b : Bus) (h : b.sdaDrv = false) :
    b.receiveBit = (b.env.drawLine.1,
      { sclDrv := true, sdaDrv := false, trace := b.trace ++ sampleEvents b.env.drawLine.1,
        env := b.env.drawLine.2 }) := by
  simp [Bus.receiveBit, Bus.releaseWait, Bus.driveLowWait, Bus.release, Bus.driveLow, Bus.setDrv, Bus.wait,
    Bus.emit, Bus.read, Bus.level, Bus.drv, sampleEvents, h]

theorem Env.takeLines_length (n : Nat) (e : Env) : (e.takeLines n).1.length = n := by
  induction n generalizing e with
  | zero => rfl
  | succ n ih => simp [Env.takeLines, ih]

/-- The bits `n` down to 0 are the next `n + 1` levels the environment presents (R112). -/
theorem Bus.receiveBits_spec (n : Nat) (v : Byte) (b : Bus) (h : b.sdaDrv = false) :
    (b.receiveBits (n + 1) v).2 =
      { sclDrv := true, sdaDrv := false, trace := b.trace ++ (b.env.takeLines (n + 1)).1.flatMap sampleEvents,
        env := (b.env.takeLines (n + 1)).2 } := by
  induction n generalizing v b with
  | zero => simp [Bus.receiveBits, Bus.receiveBit_spec b h, Env.takeLines]
  | succ n ih =>
    rw [Bus.receiveBits, ih _ _ (by simp [Bus.receiveBit_spec b h])]
    simp [Bus.receiveBit_spec b h, Env.takeLines]

/-- Setting the bits 7 to 0 in turn assembles the byte whose levels came most significant bit first. -/
theorem setBit_msbFirst : ∀ x7 x6 x5 x4 x3 x2 x1 x0 : Bool,
    setBit (setBit (setBit (setBit (setBit (setBit (setBit (setBit 0 7 x7) 6 x6) 5 x5) 4 x4) 3 x3) 2 x2) 1 x1) 0 x0
      = byteOfLevels [x7, x6, x5, x4, x3, x2, x1, x0] := by decide

theorem Bus.receiveBits_byte (b : Bus) (h : b.sdaDrv = false) :
    (b.receiveBits 8 0).1 = byteOfLevels (b.env.takeLines 8).1 := by
  simp only [Bus.receiveBits, Bus.receiveBit_spec, h, Env.takeLines]
  exact setBit_msbFirst ..

/-- `read_byte` (R112, R113): the byte is the next eight levels; SDA is left at the acknowledge level. -/
theorem Bus.readByte_spec (last : Bool) (b : Bus) :
    b.readByte last = (byteOfLevels (b.env.takeLines 8).1,
      { sclDrv := true, sdaDrv := !last, trace := b.trace ++ readEvents (b.env.takeLines 8).1 last,
        env := (b.env.takeLines 8).2 }) := by
  have h1 := Bus.receiveBits_byte (b.releaseWait .sda .tQ) rfl
  have h2 := Bus.receiveBits_spec 7 0 (b.releaseWait .sda .tQ) rfl
  simp only [Bus.readByte, h1, h2]
  cases last <;>
    simp [Bus.putWait, Bus.releaseWait, Bus.driveLowWait, Bus.release, Bus.driveLow, Bus.setDrv, Bus.wait,
      Bus.emit, readEvents, setEvent]

end Sys2Proof.Machine
end

