-- ==== Sys2Proof/Laws/Decode.lean ====
section
/-! SUPPORT. The three fields of a packed word, and the ranges of the register operands. -/

namespace Sys2Proof

@[simp] theorem opField_packWord (o a : BitVec 4) (d : Byte) : opField (packWord o a d) = o := by
  ext i hi
  simp [opField, packWord]
  grind

@[simp] theorem auxField_packWord (o a : BitVec 4) (d : Byte) : auxField (packWord o a d) = a := by
  ext i hi
  simp [auxField, packWord]
  grind

@[simp] theorem dataField_packWord (o a : BitVec 4) (d : Byte) : dataField (packWord o a d) = d := by
  ext i hi
  simp [dataField, packWord]
  grind

/-- Every index up to 0x0A is a register (R53). -/
theorem isRegister_of_le (r : RegIndex) (h : r.toNat ≤ 0x0A) : isRegister r = true := by
  simp [isRegister, h]

/-- Every index up to 0x08 may be written by WREG (R80). -/
theorem isWritable_of_le : ∀ r : RegIndex, r.toNat ≤ 0x08 → isWritable r = true := by decide

end Sys2Proof
end

