-- ==== Sys2Proof/Laws/Driver.lean ====
section
/-! SUPPORT. What the conditions and the transactions of the driver do to the bus, once. -/

namespace Sys2Proof.Machine

open Sys2Proof

/-- `start(a)` (R103). -/
theorem Bus.start_spec (a : Byte) (b : Bus) :
    b.start a = (!b.env.drawLine.1,
      { sclDrv := true, sdaDrv := false,
        trace := b.trace ++ startEvents ++ byteEvents a b.env.drawLine.1, env := b.env.drawLine.2 }) := by
  simp [Bus.start, Bus.writeByte_spec, Bus.driveLowWait, startEvents]

/-- `rstart(a)` (R105). -/
theorem Bus.rstart_spec (a : Byte) (b : Bus) :
    b.rstart a = (!b.env.drawLine.1,
      { sclDrv := true, sdaDrv := false,
        trace := b.trace ++ restartEvents ++ byteEvents a b.env.drawLine.1, env := b.env.drawLine.2 }) := by
  simp [Bus.rstart, Bus.start_spec, Bus.releaseWait, restartEvents, startEvents]

/-- `stop()` leaves the bus idle (R107). -/
theorem Bus.stop_spec (b : Bus) :
    b.stop = { sclDrv := false, sdaDrv := false, trace := b.trace ++ stopEvents, env := b.env } := by
  simp [Bus.stop, Bus.releaseWait, Bus.driveLowWait, Bus.release, Bus.driveLow, Bus.setDrv, Bus.wait, Bus.emit,
    stopEvents]

/-- INIT's line events: SCL read first, then SDA (R101). -/
theorem Bus.checkIdle_spec (b : Bus) :
    b.checkIdle = (b.env.drawLine.1 && b.env.drawLine.2.drawLine.1,
      { sclDrv := false, sdaDrv := false, env := b.env.drawLine.2.drawLine.2,
        trace := b.trace ++ [.rel .scl, .wait .tQ, .rel .sda, .wait .tQ, .rd .scl b.env.drawLine.1,
          .rd .sda b.env.drawLine.2.drawLine.1] }) := by
  simp [Bus.checkIdle, Bus.releaseWait, Bus.release, Bus.setDrv, Bus.wait, Bus.emit, Bus.read, Bus.level, Bus.drv,
    idleOk]

/-- A register write (R131, R132): the AND of the three acknowledges, the phases up to the first nack under `ABORT`,
and always an idle bus at the end. -/
theorem Bus.writeTransaction_spec (c : Config) (r v : Byte) (b : Bus) :
    b.writeTransaction c r v = (allAcked (b.env.takeLines 3).1,
      { sclDrv := false, sdaDrv := false, env := b.env.afterWrite c.nackPolicy,
        trace := b.trace ++
          writeFrame c r v (phasesSent c.nackPolicy (b.env.takeLines 3).1) (b.env.takeLines 3).1 }) := by
  cases hp : c.nackPolicy <;> cases h1 : b.env.drawLine.1 <;> cases h2 : b.env.drawLine.2.drawLine.1 <;>
    cases h3 : b.env.drawLine.2.drawLine.2.drawLine.1 <;>
    simp [Bus.writeTransaction, Bus.phase, goesOn, hp, Bus.start_spec, Bus.writeByte_spec, Bus.stop_spec, h1, h2, h3,
      Env.takeLines, Env.afterWrite, allAcked, phasesSent, writeFrame]

/-- The acknowledged phases of a register read (R133). -/
theorem Bus.readPhases_spec (c : Config) (r : Byte) (b : Bus) :
    b.readPhases c r = (allAcked (b.env.takeLines 3).1,
      { sclDrv := true, sdaDrv := false, env := b.env.afterWrite c.nackPolicy,
        trace := b.trace ++
          readHeadFrame c r (phasesSent c.nackPolicy (b.env.takeLines 3).1) (b.env.takeLines 3).1 }) := by
  cases hp : c.nackPolicy <;> cases h1 : b.env.drawLine.1 <;> cases h2 : b.env.drawLine.2.drawLine.1 <;>
    cases h3 : b.env.drawLine.2.drawLine.2.drawLine.1 <;>
    simp [Bus.readPhases, Bus.phase, goesOn, hp, Bus.start_spec, Bus.rstart_spec, Bus.writeByte_spec, h1, h2, h3,
      Env.takeLines, Env.afterWrite, allAcked, phasesSent, readHeadFrame]

/-- When the data byte of a read is reached, all three phases were sent. -/
theorem phasesSent_of_dataReached (p : NackPolicy) (e : Env) (h : dataReached p (e.takeLines 3).1 = true) :
    phasesSent p (e.takeLines 3).1 = 3 := by
  cases p with
  | continueAll => rfl
  | abort =>
    revert h
    cases h1 : e.drawLine.1 <;> cases h2 : e.drawLine.2.drawLine.1 <;>
      simp [dataReached, phasesSent, allAcked, Env.takeLines, h1, h2]

/-- A register read (R133, R134): on success the byte is the data levels, on failure the draw `ANY_U8`; always an
idle bus at the end. -/
theorem Bus.readTransaction_spec (c : Config) (r : Byte) (b : Bus) :
    b.readTransaction c r =
      if allAcked (b.env.takeLines 3).1 then
        (true, byteOfLevels b.env.dataLevels,
          { sclDrv := false, sdaDrv := false, env := b.env.afterRead c.nackPolicy,
            trace := b.trace ++ readFrame c r b.env })
      else
        (false, (b.env.afterRead c.nackPolicy).drawByte.1,
          { sclDrv := false, sdaDrv := false, env := (b.env.afterRead c.nackPolicy).drawByte.2,
            trace := b.trace ++ readFrame c r b.env }) := by
  have hr : goesOn c (allAcked (b.env.takeLines 3).1) = dataReached c.nackPolicy (b.env.takeLines 3).1 := rfl
  simp only [Bus.readTransaction, Bus.readPhases_spec, hr]
  by_cases hd : dataReached c.nackPolicy (b.env.takeLines 3).1 = true
  · have hn := phasesSent_of_dataReached _ _ hd
    simp [hd, Bus.readByte_spec, Bus.stop_spec, Env.afterRead, Env.afterWrite, hn, Env.dataLevels, readFrame]
  · have ha : allAcked (b.env.takeLines 3).1 = false := by
      simp only [dataReached, Bool.or_eq_true, not_or] at hd
      simpa using hd.1
    simp [hd, ha, Bus.stop_spec, Env.afterRead, readFrame]

end Sys2Proof.Machine
end

