-- ==== Sys2Proof/Laws/PerInstr.lean ====
section
/-! SUPPORT. Per-instruction families: the word of every command matches its row of the opcode map (R74, R75). -/

namespace Sys2Proof.Laws.TableRow

/-- The word of `i` has, in the bits its row fixes, the row's match value (R74). -/
def Statement (i : Instr) : Prop := encode i &&& i.rowMask = i.rowMatch

theorem lrel (l : Line) : Statement (.lrel l) := by
  cases l <;> rfl

theorem ldrv (l : Line) : Statement (.ldrv l) := by
  cases l <;> rfl

theorem lrd (l : Line) : Statement (.lrd l) := by
  cases l <;> rfl

theorem init : Statement .init := rfl

theorem start (d : Byte) : Statement (.start d) := by
  revert d
  unfold Statement
  decide +kernel

theorem rstart (d : Byte) : Statement (.rstart d) := by
  revert d
  unfold Statement
  decide +kernel

theorem stop : Statement .stop := rfl

theorem wrb (d : Byte) : Statement (.wrb d) := by
  revert d
  unfold Statement
  decide +kernel

theorem rdb (last : Bool) : Statement (.rdb last) := by
  cases last <;> rfl

theorem wreg (r : RegIndex) (d : Byte) : Statement (.wreg r d) := by
  revert r d
  unfold Statement
  decide +kernel

theorem rreg (r : RegIndex) : Statement (.rreg r) := by
  revert r
  unfold Statement
  decide +kernel

theorem config : Statement .config := rfl

theorem wgpio (d : Byte) : Statement (.wgpio d) := by
  revert d
  unfold Statement
  decide +kernel

theorem rgpio : Statement .rgpio := rfl

theorem tick : Statement .tick := rfl

end Sys2Proof.Laws.TableRow
end

