-- ==== Sys2Proof/Laws/Sequencer.lean ====
section
/-! SUPPORT. What the sequencer's shared operations change and leave alone, and what they do on a scripted environment
that acknowledges every byte. -/

namespace Sys2Proof.Machine

open Sys2Proof

/-! Frames: each operation changes the bus, and what else its rule names. -/

theorem State.wgpio_frame (v : Byte) (s : State) :
    (s.wgpio v).2 = { s with bus := (s.wgpio v).2.bus, shadow := v } := rfl

theorem State.writePins_frame (v : Byte) (s : State) :
    s.writePins v = { s with bus := (s.writePins v).bus, shadow := v } := rfl

theorem State.sample_frame (s : State) : s.sample.2 = { s with bus := s.sample.2.bus } := rfl

theorem State.confirm_frame (P : Byte → Bool) (s : State) :
    (s.confirm P).2 = { s with bus := (s.confirm P).2.bus } := by
  simp only [State.confirm]
  split <;> rfl

/-- A guard loop that ends has its timer at 0 and changed nothing but the bus and the timer (R172). -/
theorem guardLoop_frame (fuel : Nat) (s t : State) (h : guardLoop fuel s = some t) :
    t = { s with bus := t.bus, guardCnt := 0 } := by
  induction fuel generalizing s with
  | zero =>
    simp only [guardLoop] at h
    split at h
    · next h0 => cases h; rw [← h0]
    · cases h
  | succ n ih =>
    simp only [guardLoop] at h
    split at h
    · next h0 => cases h; rw [← h0]
    · rw [ih _ h]; rfl

/-! What each operation can do: the bus it leaves is idle, and the fields it may change are named. -/

theorem Bus.writeTransaction_idle (c : Config) (r v : Byte) (b : Bus) : (b.writeTransaction c r v).2.idle := by
  simp [Bus.writeTransaction_spec, Bus.idle]

theorem Bus.readTransaction_idle (c : Config) (r : Byte) (b : Bus) : (b.readTransaction c r).2.2.idle := by
  rw [Bus.readTransaction_spec]
  split <;> simp [Bus.idle]

theorem State.writePins_spec (s : State) (v : Byte) :
    ∃ b : Bus, b.idle ∧ s.writePins v = { s with bus := b, shadow := v } :=
  ⟨_, Bus.writeTransaction_idle .., rfl⟩

theorem State.sample_spec (s : State) :
    ∃ (x : Byte) (b : Bus), b.idle ∧ s.sample = (x, { s with bus := b }) :=
  ⟨_, _, Bus.readTransaction_idle .., rfl⟩

theorem State.wait_spec (s : State) (d : Delay) :
    ∃ b : Bus, (s.bus.idle → b.idle) ∧ s.wait d = { s with bus := b } :=
  ⟨s.bus.wait d, id, rfl⟩

theorem State.confirm_spec (s : State) (P : Byte → Bool) :
    ∃ (x : Bool) (b : Bus), b.idle ∧ s.confirm P = (x, { s with bus := b }) := by
  obtain ⟨x, b, hb, h⟩ := s.sample_spec
  obtain ⟨b2, _, h2⟩ := State.wait_spec { s with bus := b } .tDebounce
  obtain ⟨y, b3, hb3, h3⟩ := State.sample_spec { s with bus := b2 }
  simp only [State.confirm, h, h2, h3]
  split
  · exact ⟨_, _, hb3, rfl⟩
  · exact ⟨_, _, hb, rfl⟩

theorem State.render_spec (s : State) :
    ∃ b : Bus, b.idle ∧ s.blinkAdvance.render = { s.blinkAdvance with bus := b, shadow := s.rendered } := by
  obtain ⟨b, hb, h⟩ := s.blinkAdvance.writePins_spec s.blinkAdvance.renderValue
  exact ⟨b, hb, by simp only [State.render, h]; rfl⟩

theorem State.enterPowerDownWait_spec (s : State) :
    ∃ b : Bus, b.idle ∧ s.enterPowerDownWait = { s with
      bus := b, shadow := s.shadow &&& ~~~s.cfg.mPdReq, countdown := s.cfg.nShutdown, state := .powerDownWait } := by
  obtain ⟨b, hb, h⟩ := s.writePins_spec (s.shadow &&& ~~~s.cfg.mPdReq)
  exact ⟨b, hb, by simp only [State.enterPowerDownWait, h]⟩

theorem State.cutPower_spec (s : State) :
    ∃ b : Bus, b.idle ∧
      s.cutPower = { s with bus := b, shadow := s.shadow &&& ~~~s.cfg.mDc &&& ~~~s.cfg.mFan } := by
  obtain ⟨b, _, h⟩ := s.writePins_spec (s.shadow &&& ~~~s.cfg.mDc)
  simp only [State.cutPower, h]
  exact State.writePins_spec { s with bus := b, shadow := s.shadow &&& ~~~s.cfg.mDc }
    (s.shadow &&& ~~~s.cfg.mDc &&& ~~~s.cfg.mFan)

theorem guardLoop_idle (fuel : Nat) (s t : State) (hi : s.bus.idle) (h : guardLoop fuel s = some t) :
    t.bus.idle := by
  induction fuel generalizing s with
  | zero => simp only [guardLoop] at h; split at h <;> cases h; exact hi
  | succ n ih =>
    simp only [guardLoop] at h
    split at h
    · cases h; exact hi
    · refine ih _ ?_ h
      obtain ⟨x, b, hb, hs⟩ := s.sample_spec
      simp only [State.guardPass, hs]
      exact hb

/-- The guard loop, if it ends, leaves an idle bus and its timer at 0 (R172). -/
theorem State.guard_spec (s t : State) (hi : s.bus.idle) (h : s.guard = some t) :
    ∃ b : Bus, b.idle ∧ t = { s with bus := b, guardCnt := 0 } := by
  unfold State.guard at h
  exact ⟨t.bus, guardLoop_idle _ { s with guardCnt := s.cfg.nGuard } _ hi h,
    guardLoop_frame _ { s with guardCnt := s.cfg.nGuard } _ h⟩

theorem State.endTick_spec (s : State) :
    ∃ b : Bus, (s.bus.idle → b.idle) ∧ s.endTick = { s with bus := b, rOk := true } :=
  ⟨s.bus.wait .tTick, id, rfl⟩

/-! Scripted environments. -/

/-- An environment scripted with the levels of an acknowledged write, and more. -/
theorem Env.takeLines_scripted (e : Env) (x y z : Bool) (rest : List Bool) (h : e.lineDraws = x :: y :: z :: rest) :
    e.takeLines 3 = ([x, y, z], { e with lineDraws := rest }) := by
  cases e; cases h; rfl

/-- The levels of a byte assemble to the byte. -/
theorem byteOfLevels_msbFirst : ∀ v : Byte, byteOfLevels (msbFirst v) = v := by decide +kernel

theorem Bus.writeTransaction_acked (c : Config) (r v : Byte) (b : Bus) (rest : List Bool)
    (h : b.env.lineDraws = ackedWrite ++ rest) :
    b.writeTransaction c r v = (true,
      { sclDrv := false, sdaDrv := false, trace := b.trace ++ ackedWriteFrame c r v,
        env := { b.env with lineDraws := rest } }) := by
  have h3 := Env.takeLines_scripted b.env false false false rest h
  cases hp : c.nackPolicy <;>
    simp [Bus.writeTransaction_spec, Env.afterWrite, h3, phasesSent, allAcked, hp, ackedWriteFrame, ackedWrite]

theorem Bus.readTransaction_acked (c : Config) (r v : Byte) (b : Bus) (rest : List Bool)
    (h : b.env.lineDraws = ackedRead v ++ rest) :
    b.readTransaction c r = (true, v,
      { sclDrv := false, sdaDrv := false, trace := b.trace ++ ackedReadFrame c r v,
        env := { b.env with lineDraws := rest } }) := by
  have h3 := Env.takeLines_scripted b.env false false false (msbFirst v ++ rest) h
  have h8 : Env.takeLines 8 { b.env with lineDraws := msbFirst v ++ rest } =
      (msbFirst v, { b.env with lineDraws := rest }) := rfl
  have ha : allAcked [false, false, false] = true := rfl
  have hd : dataReached c.nackPolicy [false, false, false] = true := rfl
  have hn : phasesSent c.nackPolicy [false, false, false] = 3 := by cases c.nackPolicy <;> rfl
  rw [Bus.readTransaction_spec]
  simp [h3, h8, ha, hd, hn, Env.afterRead, Env.dataLevels, readFrame, ackedReadFrame, ackedWrite,
    byteOfLevels_msbFirst]

theorem Bus.writeTransaction_acked_mk (c : Config) (r v : Byte) (scl sda : Bool) (tr : List Event)
    (rest : List Bool) (bytes : List Byte) (fl fb : Nat) :
    Bus.writeTransaction c r v
        { sclDrv := scl, sdaDrv := sda, trace := tr,
          env := { lineDraws := false :: false :: false :: rest, byteDraws := bytes, freeLines := fl,
                   freeBytes := fb } } =
      (true, { sclDrv := false, sdaDrv := false, trace := tr ++ ackedWriteFrame c r v,
               env := { lineDraws := rest, byteDraws := bytes, freeLines := fl, freeBytes := fb } }) :=
  Bus.writeTransaction_acked c r v _ rest rfl

theorem Bus.readTransaction_acked_mk (c : Config) (r v : Byte) (scl sda : Bool) (tr : List Event)
    (rest : List Bool) (bytes : List Byte) (fl fb : Nat) :
    Bus.readTransaction c r
        { sclDrv := scl, sdaDrv := sda, trace := tr,
          env := { lineDraws := false :: false :: false :: (msbFirst v ++ rest), byteDraws := bytes,
                   freeLines := fl, freeBytes := fb } } =
      (true, v, { sclDrv := false, sdaDrv := false, trace := tr ++ ackedReadFrame c r v,
                  env := { lineDraws := rest, byteDraws := bytes, freeLines := fl, freeBytes := fb } }) :=
  Bus.readTransaction_acked c r v _ rest rfl

end Sys2Proof.Machine
end

