-- ==== Sys2Proof/Laws/Step.lean ====
section
/-! SUPPORT. What the record checks say, and everything a step can do, once. -/

namespace Sys2Proof.Machine

open Sys2Proof

theorem counter_ne_zero_iff (x : Counter) : (x != 0) = true ↔ 1 ≤ x.toNat := by
  simp only [bne_iff_ne, ne_eq]
  bv_omega

/-- The check of the parameters is R11. -/
theorem config_valid_iff (c : Config) : c.valid = true ↔ c.MeetsR11 := by
  simp only [Config.valid, Config.MeetsR11, Bool.and_eq_true, decide_eq_true_eq, counter_ne_zero_iff]
  simp only [PinMap.list]
  tauto

/-- The check of the counters is R30 to R32. -/
theorem State.legal_iff (s : State) : s.legal = true ↔ s.CountersInRange := by
  simp only [State.legal, State.CountersInRange, Bool.and_eq_true, decide_eq_true_eq, and_assoc, BitVec.lt_def,
    BitVec.le_def]
  rfl

/-- A record every command keeps is accepted (R194). -/
theorem State.Kept.recordRefusal {s : State} (h : s.Kept) : s.recordRefusal = none := by
  obtain ⟨h1, h2, h3, h4, _⟩ := h
  have h5 : s.guardCnt ≤ s.cfg.nGuard := by
    rw [h4]
    bv_omega
  have h6 : s.legal = true := by simp only [State.legal, h2, h3, h5, decide_true, Bool.and_self]
  simp [State.recordRefusal, h1, h6]

/-- A step that answers a next state ran one command from a record R194 accepts: its own command of the phase with
nothing pending (R220), else the first pending word's (R70). -/
theorem step_next (s t : State) (h : step s = .next t) :
    s.recordRefusal = none ∧
      ((s.pending = [] ∧ exec s.phase.ownCommand s = .next t) ∨
        ∃ w rest i, s.pending = w :: rest ∧ decode w = .command i ∧ exec i { s with pending := rest } = .next t) := by
  unfold step at h
  cases hr : s.recordRefusal with
  | some w => rw [hr] at h; cases h
  | none =>
    rw [hr] at h
    simp only at h
    refine ⟨rfl, ?_⟩
    cases hp : s.pending with
    | nil => rw [hp] at h; exact .inl ⟨rfl, h⟩
    | cons w rest =>
      rw [hp] at h
      simp only at h
      cases hd : decode w with
      | command i => rw [hd] at h; exact .inr ⟨w, rest, i, rfl, hd, h⟩
      | reserved y => rw [hd] at h; cases h

end Sys2Proof.Machine
end

