-- ==== Sys2Proof/Laws/Wire.lean ====
section
/-! SUPPORT. What a receiver sees of each stretch of trace, and the stretches' wait times and settle delays. -/

namespace Sys2Proof.Machine

open Sys2Proof

section Receiver

variable (r : Receiver) (v : Byte) (a x : Bool) (c : Config)

theorem Receiver.see_bit (h1 : r.scl = false) (h2 : r.pulse = none) (h3 : r.levels.length ≠ 8) :
    (bitEvents x).foldl Receiver.see r = { r with sda := x, levels := r.levels ++ [x] } := by
  cases x <;> simp [bitEvents, setEvent, Receiver.see, Receiver.clockIn, h1, h2, h3]

theorem Receiver.see_sample (h1 : r.scl = false) (h2 : r.pulse = none) (h3 : r.levels.length ≠ 8) :
    (sampleEvents x).foldl Receiver.see r = { r with levels := r.levels ++ [x] } := by
  cases x <;> simp [sampleEvents, Receiver.see, Receiver.clockIn, h1, h2, h3]

/-- A written byte is the byte and the level of its acknowledge slot (R83). -/
theorem Receiver.see_byte (h1 : r.scl = false) (h2 : r.pulse = none) (h3 : r.levels = []) :
    (byteEvents v a).foldl Receiver.see r = { r with sda := true, symbols := r.symbols ++ [.byte v a] } := by
  have hb := byteOfLevels_msbFirst v
  simp [msbFirst] at hb
  simp [byteEvents, msbFirst, List.foldl_append, Receiver.see_bit, h1, h2, h3, Receiver.see, Receiver.clockIn, hb]

/-- A byte read as the last is the byte of its eight samples with its acknowledge slot released (R83). -/
theorem Receiver.see_read (levels : List Bool) (h0 : levels.length = 8) (h1 : r.scl = false) (h2 : r.pulse = none)
    (h3 : r.levels = []) :
    (readEvents levels true).foldl Receiver.see r =
      { r with sda := true, symbols := r.symbols ++ [.byte (byteOfLevels levels) true] } := by
  match levels, h0 with
  | [x7, x6, x5, x4, x3, x2, x1, x0], _ =>
    simp [readEvents, setEvent, List.foldl_append, Receiver.see_sample, h1, h2, h3, Receiver.see, Receiver.clockIn]

theorem Receiver.see_start (h1 : r.scl = true) (h2 : r.sda = true) :
    startEvents.foldl Receiver.see r =
      { r with scl := false, sda := false, pulse := none, levels := [], symbols := r.symbols ++ [.start] } := by
  simp [startEvents, Receiver.see, h1, h2]

theorem Receiver.see_restart (h1 : r.scl = false) (h2 : r.pulse = none) (h3 : r.levels = []) :
    restartEvents.foldl Receiver.see r =
      { r with scl := false, sda := false, pulse := none, levels := [], symbols := r.symbols ++ [.start] } := by
  simp [restartEvents, startEvents, Receiver.see, h1, h2, h3]

theorem Receiver.see_stop (h1 : r.scl = false) (h2 : r.pulse = none) (h3 : r.levels = []) :
    stopEvents.foldl Receiver.see r =
      { r with scl := true, sda := true, pulse := none, levels := [], symbols := r.symbols ++ [.stop] } := by
  simp [stopEvents, Receiver.see, h1, h2, h3]

end Receiver

section Settle

/-- A settled stretch can be taken off the front. -/
theorem settled_append (x y : List Event) (h : settled x = true) : settled (x ++ y) = settled y := by
  induction x using settled.induct <;> simp_all [settled]

theorem settled_byteEvents (v : Byte) (a : Bool) : settled (byteEvents v a) = true := by
  have hb : ∀ l : List Bool, settled (l.flatMap bitEvents) = true := by
    intro l
    induction l with
    | nil => rfl
    | cons x l ih =>
      have hx : settled (bitEvents x) = true := by cases x <;> rfl
      rw [List.flatMap_cons, settled_append _ _ hx, ih]
  rw [byteEvents, settled_append _ _ (hb _)]
  rfl

theorem settled_readEvents (levels : List Bool) (last : Bool) : settled (readEvents levels last) = true := by
  have hs : settled (levels.flatMap sampleEvents) = true := by
    induction levels with
    | nil => rfl
    | cons x l ih => rw [List.flatMap_cons, settled_append _ _ rfl, ih]
  rw [readEvents, List.append_assoc, settled_append _ _ rfl, settled_append _ _ hs]
  cases last <;> rfl

/-- A run of byte frames is settled. -/
theorem settled_flatMap_byteEvents (l : List (Byte × Bool)) :
    settled (l.flatMap fun p => byteEvents p.1 p.2) = true := by
  induction l with
  | nil => rfl
  | cons p l ih => rw [List.flatMap_cons, settled_append _ _ (settled_byteEvents ..), ih]

/-- Every register write is a whole transaction, however its bytes are acknowledged (R57, R100). -/
theorem isTransaction_writeFrame (c : Config) (r v : Byte) (n : Nat) (levels : List Bool) :
    IsTransaction (writeFrame c r v n levels) := by
  refine ⟨?_, _, rfl⟩
  rw [writeFrame, List.append_assoc, settled_append _ _ rfl, settled_append _ _ (settled_flatMap_byteEvents _)]
  rfl

/-- Every register read is a whole transaction, however its bytes are acknowledged (R57, R100). -/
theorem isTransaction_readFrame (c : Config) (r : Byte) (e : Env) : IsTransaction (readFrame c r e) := by
  have hr (l : List Bool) : settled (l.flatMap (byteEvents c.addrR)) = true := by
    induction l with
    | nil => rfl
    | cons x l ih => rw [List.flatMap_cons, settled_append _ _ (settled_byteEvents ..), ih]
  have hs : settled restartEvents = true := rfl
  have hp : settled stopEvents = true := rfl
  simp only [IsTransaction, readFrame, readHeadFrame, List.append_assoc, List.append_cancel_left_eq]
  refine ⟨?_, _, by simp only [← List.append_assoc]; rfl⟩
  rw [settled_append _ _ rfl, settled_append _ _ (settled_flatMap_byteEvents _)]
  split <;> split <;> simp [settled_append, settled_readEvents, hr, hs, hp]

theorem pacedBySequencer_nil : PacedBySequencer [] := ⟨[], rfl, nofun⟩

theorem PacedBySequencer.append {x y : List Event} (hx : PacedBySequencer x) (hy : PacedBySequencer y) :
    PacedBySequencer (x ++ y) := by
  obtain ⟨ps, rfl, hp⟩ := hx
  obtain ⟨qs, rfl, hq⟩ := hy
  exact ⟨ps ++ qs, List.flatten_append.symm, fun p h => (List.mem_append.1 h).elim (hp p) (hq p)⟩

theorem IsTransaction.paced {evs : List Event} (h : IsTransaction evs) : PacedBySequencer evs :=
  ⟨[evs], by simp, by simp [h]⟩

theorem IsSequencerWait.paced {evs : List Event} (h : IsSequencerWait evs) : PacedBySequencer evs :=
  ⟨[evs], by simp, by simp [h]⟩

/-- What the sequencer's writes, samples and waits append to the trace. -/
theorem State.writePins_paced (s : State) (v : Byte) :
    ∃ evs, (s.writePins v).bus.trace = s.bus.trace ++ evs ∧ PacedBySequencer evs :=
  ⟨_, by simp [State.writePins, State.wgpio, Bus.writeTransaction_spec]; rfl, (isTransaction_writeFrame ..).paced⟩

theorem State.sample_paced (s : State) :
    ∃ evs, s.sample.2.bus.trace = s.bus.trace ++ evs ∧ PacedBySequencer evs := by
  refine ⟨readFrame s.cfg (s.cfg.reg .gpio) s.bus.env, ?_, (isTransaction_readFrame ..).paced⟩
  simp only [State.sample, Bus.rgpio, Bus.readTransaction_spec]
  split <;> rfl

theorem State.wait_paced (s : State) (d : Delay) (h : IsSequencerWait [.wait d]) :
    ∃ evs, (s.wait d).bus.trace = s.bus.trace ++ evs ∧ PacedBySequencer evs :=
  ⟨[.wait d], rfl, h.paced⟩

end Settle

section WaitTime

variable (c : Config)

theorem waitTime_append (x y : List Event) : waitTime c (x ++ y) = waitTime c x + waitTime c y := by
  induction x using waitTime.induct <;> simp_all [waitTime] ; omega

theorem waitTime_byteEvents (v : Byte) (a : Bool) : waitTime c (byteEvents v a) = 24 * c.tQ + 3 * c.tAck := by
  have hb : ∀ x, waitTime c (bitEvents x) = 3 * c.tQ := by
    intro x
    cases x <;> simp [bitEvents, setEvent, waitTime, Config.duration] <;> omega
  simp only [byteEvents, msbFirst, List.flatMap_cons, List.flatMap_nil, waitTime_append, hb]
  simp [waitTime, Config.duration]
  omega

theorem waitTime_readEvents (levels : List Bool) (last : Bool) (h : levels.length = 8) :
    waitTime c (readEvents levels last) = 17 * c.tQ + 3 * c.tAck := by
  have hs : ∀ l : List Bool, waitTime c (l.flatMap sampleEvents) = 2 * c.tQ * l.length := by
    intro l
    induction l with
    | nil => rfl
    | cons x l ih => rw [List.flatMap_cons, waitTime_append, ih]; simp [sampleEvents, waitTime, Config.duration]; grind
  rw [readEvents, waitTime_append, waitTime_append, hs, h]
  cases last <;> simp [setEvent, waitTime, Config.duration] <;> omega

theorem waitTime_startEvents : waitTime c startEvents = 2 * c.tQ := by
  simp [startEvents, waitTime, Config.duration]; omega

theorem waitTime_restartEvents : waitTime c restartEvents = 4 * c.tQ := by
  simp [restartEvents, startEvents, waitTime, Config.duration]; omega

theorem waitTime_stopEvents : waitTime c stopEvents = 3 * c.tQ := by
  simp [stopEvents, waitTime, Config.duration]; omega

end WaitTime

end Sys2Proof.Machine
end

