-- ==== Sys2Proof/Machine/Assembler.lean ====
section
/-! DEFINITION. The assembler syntax of 30_encoding.md R85 and the pseudo-instructions of R86: a line of text to its
command word. The machine never uses it: a harness does, to write the words it hands over (R70). -/

namespace Sys2Proof

/-- What a line is made of: words and commas. -/
inductive Token where
  | word (chars : List Char)
  | comma
  deriving DecidableEq, Repr

/-- Close the word collected so far (in reverse), if there is one. -/
def closeWord (w : List Char) (ts : List Token) : List Token :=
  if w.isEmpty then ts else .word w.reverse :: ts

/-- The tokens of a line: spaces and tabs separate, a comma stands alone, a `;` starts a comment. -/
def tokens : List Char → List Char → List Token
  | w, [] => closeWord w []
  | w, ch :: rest =>
    if ch = ';' then closeWord w []
    else if ch = ',' then closeWord w (.comma :: tokens [] rest)
    else if ch = ' ' ∨ ch = '\t' then closeWord w (tokens [] rest)
    else tokens (ch :: w) rest

/-- The value of a hexadecimal digit. -/
def hexDigit (ch : Char) : Option Nat :=
  if '0' ≤ ch ∧ ch ≤ '9' then some (ch.toNat - 48)
  else if 'a' ≤ ch ∧ ch ≤ 'f' then some (ch.toNat - 87)
  else if 'A' ≤ ch ∧ ch ≤ 'F' then some (ch.toNat - 55)
  else none

/-- The number a run of digits stands for in base `base`, continuing from `acc`. -/
def digits (base : Nat) : Nat → List Char → Option Nat
  | acc, [] => some acc
  | acc, ch :: rest =>
    match hexDigit ch with
    | some d => if d < base then digits base (acc * base + d) rest else none
    | none => none

/-- A number: `0x` and hexadecimal digits, or decimal digits (R85). -/
def number : List Char → Option Nat
  | [] => none
  | ['0', 'x'] => none
  | '0' :: 'x' :: ds => digits 16 0 ds
  | ds => digits 10 0 ds

/-- An 8-bit number (R85). -/
def byteOperand (w : List Char) : Option Byte :=
  match number w with
  | some n => if n < 256 then some (BitVec.ofNat 8 n) else none
  | none => none

/-- A line operand (R85). -/
def lineOperand (w : List Char) : Option Line :=
  if w = ['S', 'C', 'L'] then some .scl
  else if w = ['S', 'D', 'A'] then some .sda
  else none

/-- The names of the eleven registers in the order of R52. -/
def registerNames : List (Reg × List Char) :=
  [(.iodir, ['I', 'O', 'D', 'I', 'R']), (.ipol, ['I', 'P', 'O', 'L']),
    (.gpinten, ['G', 'P', 'I', 'N', 'T', 'E', 'N']), (.defval, ['D', 'E', 'F', 'V', 'A', 'L']),
    (.intcon, ['I', 'N', 'T', 'C', 'O', 'N']), (.iocon, ['I', 'O', 'C', 'O', 'N']),
    (.gppu, ['G', 'P', 'P', 'U']), (.intf, ['I', 'N', 'T', 'F']), (.intcap, ['I', 'N', 'T', 'C', 'A', 'P']),
    (.gpio, ['G', 'P', 'I', 'O']), (.olat, ['O', 'L', 'A', 'T'])]

/-- A register operand: a name of R52, with or without its `REG_` as the spec's own examples write it, or an index
(R85). -/
def registerOperand (c : Config) (w : List Char) : Option RegIndex :=
  let bare :=
    match w with
    | 'R' :: 'E' :: 'G' :: '_' :: rest => rest
    | other => other
  match registerNames.find? (fun p => p.2 == bare) with
  | some p => if (c.reg p.1).toNat < 16 then some ((c.reg p.1).setWidth 4) else none
  | none =>
    match number w with
    | some n => if n ≤ 0x0A then some (BitVec.ofNat 4 n) else none
    | none => none

/-- The flag of RDB (R85). -/
def flagOperand (w : List Char) : Option Bool :=
  if w = ['0'] then some false
  else if w = ['1'] then some true
  else none

/-- The command a line's tokens name, pseudo-instructions expanded (R85, R86). -/
def commandOf (c : Config) : List Token → Option Instr
  | [.word ['I', 'N', 'I', 'T']] => some .init
  | [.word ['S', 'T', 'O', 'P']] => some .stop
  | [.word ['C', 'O', 'N', 'F', 'I', 'G']] => some .config
  | [.word ['R', 'G', 'P', 'I', 'O']] => some .rgpio
  | [.word ['T', 'I', 'C', 'K']] => some .tick
  | [.word ['S', 'T', 'A', 'R', 'T', '.', 'W']] => some c.startW
  | [.word ['S', 'T', 'A', 'R', 'T', '.', 'R']] => some c.startR
  | [.word ['R', 'S', 'T', 'A', 'R', 'T', '.', 'R']] => some c.rstartR
  | [.word ['R', 'D', 'B', '.', 'L', 'A', 'S', 'T']] => some rdbLast
  | [.word ['R', 'D', 'B', '.', 'M', 'O', 'R', 'E']] => some rdbMore
  | [.word ['L', 'R', 'E', 'L'], .word w] => (lineOperand w).map .lrel
  | [.word ['L', 'D', 'R', 'V'], .word w] => (lineOperand w).map .ldrv
  | [.word ['L', 'R', 'D'], .word w] => (lineOperand w).map .lrd
  | [.word ['S', 'T', 'A', 'R', 'T'], .word w] => (byteOperand w).map .start
  | [.word ['R', 'S', 'T', 'A', 'R', 'T'], .word w] => (byteOperand w).map .rstart
  | [.word ['W', 'R', 'B'], .word w] => (byteOperand w).map .wrb
  | [.word ['W', 'G', 'P', 'I', 'O'], .word w] => (byteOperand w).map .wgpio
  | [.word ['R', 'D', 'B'], .word w] => (flagOperand w).map .rdb
  | [.word ['R', 'R', 'E', 'G'], .word w] => (registerOperand c w).map .rreg
  | [.word ['W', 'R', 'E', 'G'], .word w, .comma, .word v] =>
    match registerOperand c w, byteOperand v with
    | some r, some d => some (.wreg r d)
    | _, _ => none
  | _ => none

/-- The words a line assembles to: one, or none for a blank or comment line; `none` for text that is no line of the
syntax (R85). -/
def assembleLine (c : Config) (line : List Char) : Option (List CommandWord) :=
  match tokens [] line with
  | [] => some []
  | ts => (commandOf c ts).map fun i => [encode i]

end Sys2Proof
end

