-- ==== Sys2Proof/Tests/Slice0.lean ====
section
/-! SUPPORT. The model's own tests: expected words and results are those of 95_test_vectors.md (V-*) and of the rules
named. Last, one witness for the hypotheses of each obligation that has any. -/

namespace Sys2Proof.Tests

open Sys2Proof Sys2Proof.Machine

/-! ## Helpers -/

/-- After reset, idle bus, with the environment's next levels scripted. -/
def lab (levels : List Bool) : State := State.reset.scripted levels

/-- The same with SCL driven low, as a byte operation finds it. -/
def lowClock (levels : List Bool) : State := (lab levels).onBus fun b => { b with sclDrv := true }

/-- The same in `RUN`, in sequencer state `st` with the given shadow. -/
def running (st : SeqState) (shadow : Byte) (levels : List Bool) : State :=
  { lab levels with phase := .run, state := st, shadow := shadow }

/-- Small windows for the timers: `N_SHUTDOWN = 3`, `N_GUARD = 2` (V-TICK-10). -/
def shortWindows : Config := { Config.default with nShutdown := 3, nGuard := 2 }

/-- Whether an outcome is a next state of which `f` holds. -/
def next (o : Host.Outcome State Fault Refusal) (f : State → Bool) : Bool :=
  match o with
  | .next t => f t
  | .fault _ => false
  | .refused _ => false

/-- An acknowledged register write to the expander at 0x40, in the vectors' notation: `S B(0x40)/A B(r)/A B(v)/A P`. -/
def acked (r v : Byte) : List Event :=
  startEvents ++ byteEvents 0x40 false ++ byteEvents r false ++ byteEvents v false ++ stopEvents

/-- A sample of the GPIO register that returns `v`. -/
def sampled (v : Byte) : List Event :=
  startEvents ++ byteEvents 0x40 false ++ byteEvents 0x09 false ++ restartEvents ++ byteEvents 0x41 false ++
    readEvents (msbFirst v) true ++ stopEvents

/-! ## Well-formedness: each check refuses an ill-formed command -/

theorem test_wellFormed_refuses_wreg_gpio : (Instr.wreg 0x9 0x00).wellFormed = false := by decide
theorem test_wellFormed_refuses_wreg_olat : (Instr.wreg 0xA 0x00).wellFormed = false := by decide
theorem test_wellFormed_refuses_wreg_no_register : (Instr.wreg 0xB 0x00).wellFormed = false := by decide
theorem test_wellFormed_refuses_rreg_no_register : (Instr.rreg 0xB).wellFormed = false := by decide
theorem test_wellFormed_admits_rreg_olat : (Instr.rreg 0xA).wellFormed = true := by decide

/-! ## Decoding: each command's word written out bit by bit from the patterns of R75 -/

theorem test_decode_lrel : decode 0b0001000100000000 = .command (.lrel .sda) := by decide
theorem test_decode_ldrv : decode 0b0010000000000000 = .command (.ldrv .scl) := by decide
theorem test_decode_lrd : decode 0b0011000100000000 = .command (.lrd .sda) := by decide
theorem test_decode_init : decode 0b0100000000000000 = .command .init := by decide
theorem test_decode_start : decode 0b0101000001000001 = .command (.start 0x41) := by decide
theorem test_decode_rstart : decode 0b0110000001000001 = .command (.rstart 0x41) := by decide
theorem test_decode_stop : decode 0b0111000000000000 = .command .stop := by decide
theorem test_decode_wrb : decode 0b1000000010100101 = .command (.wrb 0xA5) := by decide
theorem test_decode_rdb : decode 0b1001000100000000 = .command (.rdb true) := by decide
theorem test_decode_wreg : decode 0b1010010101001000 = .command (.wreg 0x5 0x48) := by decide
theorem test_decode_rreg : decode 0b1011101000000000 = .command (.rreg 0xA) := by decide
theorem test_decode_config : decode 0b1100000000000000 = .command .config := by decide
theorem test_decode_wgpio : decode 0b1101000000110001 = .command (.wgpio 0x31) := by decide
theorem test_decode_rgpio : decode 0b1110000000000000 = .command .rgpio := by decide
theorem test_decode_tick : decode 0b1111000000000000 = .command .tick := by decide

/-- The words section 2 of the vectors lists as refused. -/
theorem test_decode_refused_words :
    [0x0000, 0x1200, 0x1101, 0x4001, 0x5140, 0x9300, 0xA900, 0xAA00, 0xAB00, 0xBF00, 0xB901, 0xF0FF].all
      (fun w => (decode (w : CommandWord)).command?.isNone) = true := by decide

theorem test_decodeTableWord : decodeTableWord 16 0xA548 = some (.wreg 0x5 0x48) := by decide

/-- R86's pseudo-instructions with the default address (R51). -/
theorem test_pseudo_instructions :
    [encode Config.default.startW, encode Config.default.startR, encode Config.default.rstartR, encode rdbLast,
      encode rdbMore] = [0x5040, 0x5041, 0x6041, 0x9100, 0x9000] := by decide

/-- R85 and R86: lines of the spec's own programs, in both spellings of a register, and lines that are none. -/
theorem test_assembler :
    (["WREG IOCON, 0x48", "RREG REG_OLAT ; a comment", "RSTART.R", "WGPIO 49", "LREL SDA", " ; nothing"].map
      fun l => assembleLine Config.default l.toList) =
        [some [0xA548], some [0xBA00], some [0x6041], some [0xD031], some [0x1100], some []] ∧
      (["WAITTICK", "WRB 256", "RREG 11", "LRD SCK", "WREG 1 2"].all
        fun l => (assembleLine Config.default l.toList).isNone) = true := by
  decide +kernel

/-- The masks of R10 under the default pin map. -/
theorem test_default_masks :
    let c := Config.default
    [c.ledMask, c.mSwitch, c.mFan, c.mDc, c.mBoardUp, c.mPdReq, c.inMask, c.outMask] =
      [0x07, 0x08, 0x10, 0x20, 0x40, 0x80, 0x48, 0xB7] := by decide

/-! ## Bus Line Control -/

/-- V-LINE-1. -/
theorem test_lrel : next (exec (.lrel .sda) ((lab []).onBus fun b => { b with sdaDrv := true }))
    (fun t => !t.bus.sdaDrv && t.bus.trace == [.rel .sda] && t.rOk && t.rData == 0x00) = true := by decide +kernel

/-- V-LINE-2. -/
theorem test_ldrv : next (exec (.ldrv .scl) (lab []))
    (fun t => t.bus.sclDrv && !t.bus.sdaDrv && t.bus.trace == [.low .scl] && t.rOk) = true := by decide +kernel

/-- V-LINE-3: a driven line reads 0 and draws nothing. -/
theorem test_lrd_driven : next (exec (.lrd .sda) ((lab [true]).onBus fun b => { b with sdaDrv := true }))
    (fun t => t.rData == 0x00 && t.bus.trace == [.rd .sda false] && t.bus.env.lineDraws == [true]) = true := by
  decide +kernel

/-- V-LINE-4. -/
theorem test_lrd_released : next (exec (.lrd .sda) (lab [true]))
    (fun t => t.rData == 0x01 && t.bus.trace == [.rd .sda true] && t.bus.env.lineDraws == []) = true := by
  decide +kernel

/-! ## Protocol Engine -/

/-- V-INIT-1. -/
theorem test_init_good : next (exec .init (lab [true, true])) (fun t => t.rOk && !t.rBusfault &&
    t.phase == .bootConfig && t.bus.trace ==
      [.rel .scl, .wait .tQ, .rel .sda, .wait .tQ, .rd .scl true, .rd .sda true]) = true := by decide +kernel

/-- V-INIT-3: both lines are read though SCL is low. -/
theorem test_init_fault : next (exec .init (lab [false, true])) (fun t => !t.rOk && t.rBusfault &&
    t.phase == .bootConfig && t.bus.trace.drop 4 == [.rd .scl false, .rd .sda true]) = true := by decide +kernel

/-- V-START-1. -/
theorem test_start_acked : next (exec (.start 0x40) (lab [false])) (fun t => t.rOk && t.bus.sclDrv &&
    !t.bus.sdaDrv && t.bus.trace == startEvents ++ byteEvents 0x40 false) = true := by decide +kernel

/-- V-START-2. -/
theorem test_start_nacked : next (exec (.start 0x40) (lab [true])) (fun t => !t.rOk &&
    t.bus.trace == startEvents ++ byteEvents 0x40 true) = true := by decide +kernel

/-- V-RSTART-1. -/
theorem test_rstart : next (exec (.rstart 0x41) (lowClock [false])) (fun t => t.rOk &&
    t.bus.trace.take 8 == [.rel .sda, .wait .tQ, .rel .scl, .wait .tQ, .low .sda, .wait .tQ, .low .scl, .wait .tQ]
      && t.bus.trace.length == 63) = true := by decide +kernel

/-- V-STOP-1. -/
theorem test_stop : next (exec .stop (lowClock [])) (fun t => t.rOk && !t.bus.sclDrv && !t.bus.sdaDrv &&
    t.bus.trace == [.low .sda, .wait .tQ, .rel .scl, .wait .tQ, .rel .sda, .wait .tQ]) = true := by decide +kernel

/-- V-WRB-1, its 55 events as the vector lists them. -/
theorem test_wrb_acked : next (exec (.wrb 0xA5) (lowClock [false])) (fun t => t.rOk && t.bus.sclDrv &&
    !t.bus.sdaDrv && t.bus.trace == [
      .rel .sda, .wait .tQ, .rel .scl, .wait .tQ, .low .scl, .wait .tQ,
      .low .sda, .wait .tQ, .rel .scl, .wait .tQ, .low .scl, .wait .tQ,
      .rel .sda, .wait .tQ, .rel .scl, .wait .tQ, .low .scl, .wait .tQ,
      .low .sda, .wait .tQ, .rel .scl, .wait .tQ, .low .scl, .wait .tQ,
      .low .sda, .wait .tQ, .rel .scl, .wait .tQ, .low .scl, .wait .tQ,
      .rel .sda, .wait .tQ, .rel .scl, .wait .tQ, .low .scl, .wait .tQ,
      .low .sda, .wait .tQ, .rel .scl, .wait .tQ, .low .scl, .wait .tQ,
      .rel .sda, .wait .tQ, .rel .scl, .wait .tQ, .low .scl, .wait .tQ,
      .rel .sda, .wait .tAck, .rel .scl, .wait .tAck, .rd .sda false, .low .scl, .wait .tAck]) = true := by
  decide +kernel

/-- V-WRB-2. -/
theorem test_wrb_nacked : next (exec (.wrb 0x40) (lowClock [true])) (fun t => !t.rOk &&
    t.bus.trace.length == 55 && t.bus.trace.getLast? == some (.wait .tAck)) = true := by decide +kernel

/-- V-RDB-1. -/
theorem test_rdb_last : next (exec (.rdb true) (lowClock [false, true, false, false, true, false, false, false]))
    (fun t => t.rData == 0x48 && t.rOk && !t.bus.sdaDrv && t.bus.trace.length == 48 && t.bus.trace.drop 42 ==
      [.rel .sda, .wait .tAck, .rel .scl, .wait .tAck, .low .scl, .wait .tAck]) = true := by decide +kernel

/-- V-RDB-2. -/
theorem test_rdb_more : next (exec (.rdb false) (lowClock [false, true, false, false, true, false, false, false]))
    (fun t => t.rData == 0x48 && t.bus.sdaDrv && t.bus.trace.drop 42 ==
      [.low .sda, .wait .tAck, .rel .scl, .wait .tAck, .low .scl, .wait .tAck]) = true := by decide +kernel

/-! ## Device Register Driver -/

/-- V-WREG-2. -/
theorem test_wreg_abort : next (exec (.wreg 0x1 0x00) (lab [true])) (fun t => !t.rOk && !t.bus.sclDrv &&
    !t.bus.sdaDrv && t.bus.trace == startEvents ++ byteEvents 0x40 true ++ stopEvents) = true := by decide +kernel

/-- V-WREG-3. -/
theorem test_wreg_continue :
    next (exec (.wreg 0x1 0x00) { lab [true, false, false] with
        cfg := { Config.default with nackPolicy := .continueAll } })
      (fun t => !t.rOk && t.bus.trace == startEvents ++ byteEvents 0x40 true ++ byteEvents 0x01 false ++
        byteEvents 0x00 false ++ stopEvents) = true := by
  decide +kernel

/-- V-RREG-1. -/
theorem test_rreg_acked : next (exec (.rreg 0x9) (lab (ackedRead 0x48))) (fun t => t.rOk && t.rData == 0x48 &&
    t.bus.trace == sampled 0x48)
      = true := by decide +kernel

/-- V-RREG-2: the byte is the drawn one. -/
theorem test_rreg_nacked :
    next (exec (.rreg 0x9) ((lab [false, false, true]).onBus fun b =>
        { b with env := { b.env with byteDraws := [0xC3] } }))
      (fun t => !t.rOk && t.rData == 0xC3 &&
        t.bus.trace == startEvents ++ byteEvents 0x40 false ++ byteEvents 0x09 false ++ restartEvents ++
          byteEvents 0x41 true ++ stopEvents) = true := by
  decide +kernel

/-- V-CFG-1. -/
theorem test_config_acked :
    ∃ t, exec .config { lab (List.replicate 18 false) with phase := .bootConfig } = .next t ∧
      t.bus.trace = acked 0x05 0x00 ++ acked 0x01 0x00 ++ acked 0x02 0x00 ++ acked 0x06 0x08 ++ acked 0x09 0x00 ++
        acked 0x00 0x48 ∧ t.shadow = 0x00 ∧ t.rOk = true ∧ t.phase = .run := by
  refine ⟨_, rfl, ?_, rfl, rfl, rfl⟩
  simp only [State.configWrites, State.configWrite, State.wgpio, State.onBus, State.finish, lab, State.scripted,
    List.replicate, Bus.writeTransaction_acked_mk]
  rfl

/-- V-CFG-2: the first transaction is nacked, and the other five consume their 15 acknowledges. -/
theorem test_config_first_nacked :
    next (exec .config (lab (true :: List.replicate 15 false))) (fun t =>
      t.rOk && t.shadow == 0x00 && t.bus.env.lineDraws == [] && t.bus.env.freeLines == 0) = true := by
  decide +kernel

/-- V-WGPIO-1. -/
theorem test_wgpio_nacked : next (exec (.wgpio 0x11) { lab [true] with shadow := 0x01 }) (fun t =>
    !t.rOk && t.shadow == 0x11) = true := by decide +kernel

/-- V-WGPIO-2. -/
theorem test_wgpio_acked : next (exec (.wgpio 0x31) (lab ackedWrite)) (fun t => t.rOk && t.shadow == 0x31 &&
    t.bus.trace == acked 0x09 0x31) = true := by decide +kernel

/-- V-RGPIO-1. -/
theorem test_rgpio : next (exec .rgpio { lab (ackedRead 0x70) with shadow := 0x30 }) (fun t =>
    t.rOk && t.rData == 0x70 && t.shadow == 0x30) = true := by decide +kernel

/-! ## Power Sequencer -/

/-- V-TICK-2. -/
theorem test_tick_power_up :
    next (exec .tick (running .off 0x01
        (ackedWrite ++ ackedRead 0x01 ++ ackedRead 0x01 ++ ackedWrite ++ ackedWrite)))
      (fun t => t.state == .poweringUp && t.shadow == 0x31 && t.rOk && t.blinkCnt == 1 &&
        t.bus.env.lineDraws == [] && t.bus.env.freeLines == 0) = true := by decide +kernel

/-- V-TICK-11 at the cut of V-TICK-10: the guard is re-armed by each pressed sample, and ends after five. -/
theorem test_tick_power_cut :
    next (exec .tick { running .powerDownWait 0x31
        (ackedWrite ++ ackedWrite ++ ackedWrite ++ [0x05, 0x0D, 0x05, 0x0D, 0x0D].flatMap ackedRead) with
          cfg := shortWindows, countdown := 1 })
      (fun t => t.state == .off && t.shadow == 0x05 && t.guardCnt == 0 && t.countdown == 0 &&
        t.bus.env.lineDraws == [] && t.bus.env.freeLines == 0) = true := by decide +kernel

/-! ## The step -/

theorem test_step_boots_with_init :
    next (step (lab [true, true])) (fun t => t.phase == .bootConfig && t.rOk) = true := by decide +kernel

theorem test_step_runs_fetched_word :
    next (step (State.reset.withFetchWord 16 0x2100)) (fun t => t.bus.sdaDrv && t.pending == []) = true := by
  decide +kernel

/-! ## Witnesses: a concrete input for the hypotheses of each obligation, one for each clause -/

/-- The largest admitted register operands, and none. -/
theorem witness_DecodeOfEncode :
    (Instr.wreg 0x8 0xFF).wellFormed = true ∧ (Instr.rreg 0xA).wellFormed = true ∧ Instr.tick.wellFormed = true := by
  decide

theorem witness_EncodeOfDecode :
    decode 0xA8FF = .command (.wreg 0x8 0xFF) ∧ decode 0xBA00 = .command (.rreg 0xA) := by decide

theorem witness_WordSelectsTheRow :
    (0xA8FF : CommandWord) &&& (Instr.wreg 0x0 0x00).rowMask = (Instr.wreg 0x0 0x00).rowMatch ∧
      (0xA8FF : CommandWord) &&& (Instr.wreg 0x1 0x01).rowMask = (Instr.wreg 0x1 0x01).rowMatch := by decide

/-- A word of each kind of R79 and R80, the last two at the first index past the admitted ones. -/
theorem witness_reserved_words :
    reservedByFormat 0x0FFF ∧ reservedByFormat 0x1200 ∧ reservedByFormat 0x9001 ∧ reservedByFormat 0xF800 ∧
      reservedByFormat 0x5100 ∧ reservedByFormat 0xB901 ∧ reservedOperand 0xA9FF ∧ reservedOperand 0xBB00 := by
  unfold reservedByFormat reservedOperand
  refine ⟨?_, ?_, ?_, ?_, ?_, ?_, ?_, ?_⟩ <;> decide

theorem witness_ReservedWordIsRefusedForTheRun :
    ∀ w ∈ [0x0FFF, 0x1200, 0x9001, 0xF800, 0x5100, 0xB901, 0xA9FF, 0xBB00],
      (State.reset.withFetchWord 16 w).recordRefusal = none ∧
        (State.reset.withFetchWord 16 w).pending = [BitVec.ofNat 16 w] := by
  decide

theorem witness_StepRunsTheDecodedCommand :
    (State.reset.withFetchWord 16 0xF000).recordRefusal = none ∧
      (State.reset.withFetchWord 16 0xF000).pending = [0xF000] ∧ decode 0xF000 = .command .tick := by decide

theorem witness_HandedWordRunsNext :
    State.reset.recordRefusal = none ∧ (Instr.wreg 0x8 0xFF).wellFormed = true := by decide

theorem witness_BlockIssuesItsOwnCommand :
    ∀ ph : Phase, ({ State.reset with phase := ph }).recordRefusal = none ∧
      ({ State.reset with phase := ph }).pending = [] := by
  intro ph
  cases ph <;> decide

/-- Parameters one step past a bound of R11, then legal ones with a counter one step past its range, then every counter
at its last legal value. -/
theorem witness_IllRecordIsRefused :
    ¬ ({ Config.default with tAck := 2 }).MeetsR11 ∧ ¬ ({ Config.default with tAck := 0 }).MeetsR11 ∧
      ¬ ({ Config.default with nGuard := 0 }).MeetsR11 ∧
      ¬ ({ Config.default with pins := { PinMap.default with red := 7 } }).MeetsR11 ∧
      Config.default.MeetsR11 ∧ ¬ ({ State.reset with blinkCnt := 50 }).CountersInRange ∧
      ¬ ({ State.reset with countdown := 801 }).CountersInRange ∧
      ¬ ({ State.reset with guardCnt := 101 }).CountersInRange ∧
      ({ State.reset with blinkCnt := 49, countdown := 800, guardCnt := 100 }).CountersInRange := by
  unfold Config.MeetsR11 State.CountersInRange
  decide

/-- The default parameters, and every bound of R11 at its edge. -/
theorem witness_valid : Config.default.valid = true ∧
    ({ Config.default with nBlink := 1, nShutdown := 0xFFFF, nGuard := 1, devAddr := 0x7F }).valid = true := by
  decide

theorem witness_LrdReadsItsLine :
    ∀ l : Line, (((lab []).bus.setDrv l true).drv l = true) ∧ ((lab []).bus.drv l = false) := by
  intro l
  cases l <;> decide

/-- Both clauses: a CONFIG, and a TICK whose render and whose sample are nacked. -/
theorem witness_EveryTransitionSettles :
    (∀ l, Instr.config ≠ .lrel l ∧ Instr.config ≠ .ldrv l) ∧ Instr.config ≠ .tick ∧
      (∃ t, exec .config State.reset = .next t) ∧ ∃ t, exec .tick (running .off 0x31 [true, true]) = .next t :=
  ⟨fun _ => ⟨nofun, nofun⟩, nofun, ⟨_, rfl⟩, _, rfl⟩

/-- Both ends of the range of WREG's index, on an idle bus. -/
theorem witness_Wreg : ∀ r ∈ [(0x0 : RegIndex), 0x8], r.toNat ≤ 0x08 ∧ r.setWidth 8 ≠ State.reset.cfg.regs.gpio ∧
    r.setWidth 8 ≠ State.reset.cfg.regs.olat ∧ State.reset.bus.idle := by
  unfold Bus.idle
  decide

/-- RREG's largest index with every byte acknowledged, and with the last of the three nacked; the same levels serve
RGPIO, and on the idle bus of `witness_idle` the frames on the wire. -/
theorem witness_Rreg : (0xA : RegIndex).toNat ≤ 0x0A ∧
    allAcked (((lab (ackedRead 0x48)).bus.env.takeLines 3).1) = true ∧
    allAcked (((lab [false, false, true]).bus.env.takeLines 3).1) = false := by decide

theorem witness_ReservedRegisters :
    0x0A < (0xB : RegIndex).toNat ∧ ((0xA : RegIndex) = 0x9 ∨ (0xA : RegIndex) = 0xA) ∧ (0x3 : RegIndex).toNat ≤ 0x0A ∧
      (0x3 : RegIndex).setWidth 8 = ({ RegTable.default with gpio := 0x03, defval := 0x09 }).gpio := by
  decide

theorem witness_idle : State.reset.bus.idle := ⟨rfl, rfl⟩

theorem witness_TickCompletes :
    (State.reset.state ≠ .powerDownWait ∨ State.reset.countdown ≠ 1) ∧
      (({ running .powerDownWait 0x31 [] with countdown := 2 }).state ≠ .powerDownWait ∨
        ({ running .powerDownWait 0x31 [] with countdown := 2 }).countdown ≠ 1) := by decide

/-- Both clauses: the timer at its last value, and just before it. -/
theorem witness_TickAdvancesTheBlinkTimer :
    next (exec .tick { lab (ackedWrite ++ ackedRead 0x08) with blinkCnt := 49 }) (fun t => t.blinkCnt == 0 && t.blinkPhase) = true ∧
      next (exec .tick { lab (ackedWrite ++ ackedRead 0x08) with blinkCnt := 48 }) (fun t => t.blinkCnt == 49 && !t.blinkPhase) = true ∧
      (49 : Counter) < State.reset.cfg.nBlink := by
  decide +kernel

theorem witness_tick_completes : ∀ st ∈ [SeqState.off, .poweringUp, .on, .powerDownRequested],
    ∃ t, exec .tick (running st 0x31 []) = .next t := by
  intro st h
  fin_cases h <;> exact ⟨_, rfl⟩

/-- The two cases of PowerDownWait: the countdown goes on, and it ends on acknowledged samples. -/
theorem witness_tick_completes_powerDownWait :
    next (exec .tick { running .powerDownWait 0x31 [] with countdown := 2 }) (fun t => t.countdown == 1) = true ∧
      next (exec .tick { running .powerDownWait 0x31
        (ackedWrite ++ ackedWrite ++ ackedWrite ++ ackedRead 0x08 ++ ackedRead 0x08) with
          cfg := shortWindows, countdown := 1 }) (fun t => t.state == .off) = true := by
  decide +kernel

/-- A nacked WGPIO, then a TICK whose render is acknowledged. -/
theorem witness_DroppedWriteHeals :
    next (exec (.wgpio 0x31) (running .on 0x30 [true])) (fun u =>
      next (exec .tick (u.scripted (ackedWrite ++ []))) fun _ => true) = true := by
  decide +kernel

/-- The four kinds of samples, each a pair that differs in the one bit the predicate reads. -/
theorem witness_samples :
    let c := Config.default
    switchPressed c 0xF7 ∧ ¬ switchPressed c 0x08 ∧ boardIsUp c 0x40 ∧ ¬ boardIsUp c 0xBF ∧
      (boardIsUp c 0x40 ∧ switchPressed c 0x40) ∧ (boardIsUp c 0x48 ∧ ¬ switchPressed c 0x48) ∧
      (¬ boardIsUp c 0x08 ∧ ¬ switchPressed c 0x08) := by
  unfold switchPressed boardIsUp
  decide

theorem witness_sequencer_states :
    (running .off 0x00 []).state = .off ∧ (running .poweringUp 0x31 []).state = .poweringUp ∧
      (running .on 0x30 []).state = .on ∧ (running .powerDownRequested 0xB0 []).state = .powerDownRequested ∧
      (running .powerDownWait 0x30 []).state = .powerDownWait ∧
      ({ running .powerDownWait 0x30 [] with countdown := 2 }).countdown ≠ 1 := by decide

/-- The guard windows 1, 2 (V-TICK-11) and 100: the samples end the loop, each exactly at its last. -/
theorem witness_PowerCut :
    ({ running .powerDownWait 0x31 [] with countdown := 1 }).countdown = 1 ∧
      guardTimer 1 1 ([0x08].map fun v : Byte => !v.getLsbD 3) = some 0 ∧
      guardTimer 2 2 ([0x05, 0x0D, 0x05, 0x0D, 0x0D].map fun v : Byte => !v.getLsbD 3) = some 0 ∧
      guardTimer Config.default.nGuard Config.default.nGuard
        ((List.replicate 100 0x08).map fun v : Byte => !v.getLsbD Config.default.pins.switch.toNat) = some 0 := by
  decide +kernel

/-- Off under `ABORT`; a byte that reads pressed, and one that reads released, drawn or as the acknowledged sample. -/
theorem witness_FailedReads :
    State.reset.state = .off ∧ State.reset.cfg.nackPolicy = .abort ∧
      (switchPressed Config.default 0x00 ∧ ¬ switchPressed Config.default 0x08) := by
  unfold switchPressed
  decide

/-- Commands of the Protocol Engine that complete. -/
theorem witness_EngineWaitTimes : ∀ i ∈ [Instr.lrel .scl, .ldrv .sda, .lrd .sda, .init, .wrb 0xFF, .rdb true,
    .start 0x40, .rstart 0x41, .stop], ∃ t, exec i State.reset = .next t := by
  intro i h
  fin_cases h <;> exact ⟨_, rfl⟩

/-- A write all acked, nacked at the address under `ABORT`, or nacked under `CONTINUE`; a read all acked; a CONFIG with
its 18 acknowledges. -/
theorem witness_DriverWaitTimes :
    (∃ t, exec (.wreg 0x8 0xFF) (lab ackedWrite) = .next t) ∧ (∃ t, exec .rgpio (lab (ackedRead 0x48)) = .next t) ∧
      (∃ t, exec .config (lab (List.replicate 18 false)) = .next t) ∧
      allAcked (((lab ackedWrite).bus.env.takeLines 3).1) = true ∧
      (((lab [true]).bus.env.takeLines 3).1).head? = some true ∧ State.reset.cfg.nackPolicy = .abort ∧
      ({ Config.default with nackPolicy := .continueAll }).nackPolicy = .continueAll ∧
      ((lab (List.replicate 18 false)).bus.env.takeLines 18).1 = List.replicate 18 false :=
  ⟨⟨_, rfl⟩, ⟨_, rfl⟩, ⟨_, rfl⟩, rfl, rfl, rfl, rfl, rfl⟩

/-- Each command completes from reset, TICK among them. -/
theorem witness_EachCommandWritesItsFieldsOnly : ∀ i ∈ [Instr.lrel .sda, .ldrv .scl, .lrd .scl, .init, .start 0x00,
    .rstart 0x00, .stop, .wrb 0x00, .rdb false, .wreg 0x0 0x00, .rreg 0x0, .config, .wgpio 0xFF, .rgpio, .tick],
      ∃ t, exec i State.reset = .next t := by
  intro i h
  fin_cases h <;> exact ⟨_, rfl⟩

/-- A step from reset answers a next state, and reset is kept. -/
theorem witness_step : State.reset.Kept ∧ ∃ t, step State.reset = .next t := by
  refine ⟨?_, _, rfl⟩
  unfold State.Kept
  decide

/-- The block on its own, at reset and in On with the outputs of that state. -/
theorem witness_OnItsOwn : State.reset.OnItsOwn ∧ (running .on 0x32 []).OnItsOwn ∧
    ((running .on 0x32 []).state ≠ .powerDownWait ∨ (running .on 0x32 []).countdown ≠ 1) ∧
      ∃ t, step (running .on 0x32 []) = .next t := by
  refine ⟨?_, ?_, by decide, _, rfl⟩ <;>
    (unfold State.OnItsOwn State.Kept State.OutputsMatch State.pinSet Bus.idle; decide)

end Sys2Proof.Tests
end

/-! # The scope of the block (00_scope.md): the record check, the decoded command, and the invariant of the record -/

namespace Sys2Proof.Machine

open Sys2Proof

/-! ## The record check of the step (R11, R30 to R32, R194) -/

/-- Parameters that violate R11 are the first thing refused. -/
theorem State.recordRefusal_of_not_meetsR11 {s : State} (h : ¬ s.cfg.MeetsR11) :
    s.recordRefusal = some .badConfig := by
  have hv : s.cfg.valid = false := by rwa [← config_valid_iff, Bool.not_eq_true] at h
  simp [State.recordRefusal, hv]

/-- Under legal parameters a counter out of its range is refused. -/
theorem State.recordRefusal_of_not_countersInRange {s : State} (hc : s.cfg.MeetsR11)
    (h : ¬ s.CountersInRange) : s.recordRefusal = some .badState := by
  have hv : s.cfg.valid = true := (config_valid_iff _).mpr hc
  have hl : s.legal = false := by rwa [← State.legal_iff, Bool.not_eq_true] at h
  simp [State.recordRefusal, hv, hl]

/-- Nothing else of the record is refused. -/
theorem State.recordRefusal_of_countersInRange {s : State} (hc : s.cfg.MeetsR11)
    (h : s.CountersInRange) : s.recordRefusal = none := by
  have hv : s.cfg.valid = true := (config_valid_iff _).mpr hc
  have hl : s.legal = true := s.legal_iff.mpr h
  simp [State.recordRefusal, hv, hl]

/-- The step answers the refusal of an ill record before it looks at any command. -/
theorem step_of_recordRefusal {s : State} {why : Refusal} (h : s.recordRefusal = some why) :
    step s = .refused why := by
  simp only [step, h]

/-- An accepted record with a word pending runs that word's command, the word taken off (R17, R70). -/
theorem step_of_pending {s : State} {w : CommandWord} {rest : List CommandWord} {i : Instr}
    (hr : s.recordRefusal = none) (hp : s.pending = w :: rest) (hd : decode w = .command i) :
    step s = exec i { s with pending := rest } := by
  simp only [step, hr, hp, hd]

/-! ## Every command but TICK leaves the sequencer's fields alone (R37) -/

theorem execWreg_frame {r : RegIndex} {d : Byte} {s t : State} (h : execWreg r d s = .next t) :
    t = { s with bus := t.bus, rOk := t.rOk } := by
  unfold execWreg at h
  split at h <;> cases h
  rfl

theorem execRreg_frame {r : RegIndex} {s t : State} (h : execRreg r s = .next t) :
    t = { s with bus := t.bus, rOk := t.rOk, rData := t.rData } := by
  unfold execRreg at h
  split at h <;> cases h
  rfl

/-- CONFIG's six writes change the bus and clear the shadow (R135, R138). -/
theorem State.configWrites_frame (s : State) :
    ∃ b : Bus, s.configWrites = { s with bus := b, shadow := 0x00 } :=
  ⟨_, rfl⟩

theorem execConfig_frame {s t : State} (h : execConfig s = .next t) :
    t = { s with bus := t.bus, rOk := t.rOk, phase := t.phase, shadow := t.shadow } := by
  obtain ⟨b, hb⟩ := s.configWrites_frame
  simp only [execConfig, hb] at h
  cases h
  rfl

/-- A command other than TICK writes the bus, the result registers, the phase and the shadow at most. -/
theorem exec_frame {i : Instr} {s t : State} (hi : i ≠ .tick) (h : exec i s = .next t) :
    t = { s with
      bus := t.bus, rOk := t.rOk, rData := t.rData, rBusfault := t.rBusfault, phase := t.phase,
      shadow := t.shadow } := by
  cases i with
  | tick => exact absurd rfl hi
  | wreg r d => rw [execWreg_frame h]
  | rreg r => rw [execRreg_frame h]
  | config => rw [execConfig_frame h]
  | lrel | ldrv | lrd | init | start | rstart | stop | wrb | rdb | wgpio | rgpio =>
    obtain rfl := Host.Outcome.next.inj h
    rfl

/-! ## What the evaluation of each sequencer state can do: the state it leaves, up to the idle bus -/

/-- R159: nothing but samples, or the power-up with fan and supply on. -/
theorem State.evalOff_cases (s : State) : ∃ b : Bus, b.idle ∧
    (s.evalOff = { s with bus := b } ∨
      s.evalOff = { s with
        bus := b, shadow := s.shadow ||| s.cfg.mFan ||| s.cfg.mDc, state := .poweringUp }) := by
  obtain ⟨x, b, hb, hc⟩ := s.confirm_spec (pressed s.cfg)
  obtain ⟨b1, -, h1⟩ := State.writePins_spec { s with bus := b } (s.shadow ||| s.cfg.mFan)
  obtain ⟨b2, -, h2⟩ :=
    State.wait_spec { s with bus := b1, shadow := s.shadow ||| s.cfg.mFan } .tFanSettle
  obtain ⟨b3, hb3, h3⟩ := State.writePins_spec
    { s with bus := b2, shadow := s.shadow ||| s.cfg.mFan } (s.shadow ||| s.cfg.mFan ||| s.cfg.mDc)
  simp only [State.evalOff, hc]
  split
  · exact ⟨b3, hb3, .inr (by simp only [h1, h2, h3])⟩
  · exact ⟨b, hb, .inl rfl⟩

/-- R162: nothing but samples, or On. -/
theorem State.evalPoweringUp_cases (s : State) : ∃ b : Bus, b.idle ∧
    (s.evalPoweringUp = { s with bus := b } ∨ s.evalPoweringUp = { s with bus := b, state := .on }) := by
  obtain ⟨x, b, hb, hc⟩ := s.confirm_spec (up s.cfg)
  simp only [State.evalPoweringUp, hc]
  split
  · exact ⟨b, hb, .inr rfl⟩
  · exact ⟨b, hb, .inl rfl⟩

/-- R164, R165: nothing but samples, the entry to PowerDownWait, or the request to power down. -/
theorem State.evalOn_cases (s : State) : ∃ b : Bus, b.idle ∧
    (s.evalOn = { s with bus := b } ∨
      s.evalOn = { s with
        bus := b, shadow := s.shadow &&& ~~~s.cfg.mPdReq, countdown := s.cfg.nShutdown,
        state := .powerDownWait } ∨
      s.evalOn = { s with
        bus := b, shadow := s.shadow ||| s.cfg.mPdReq, state := .powerDownRequested }) := by
  obtain ⟨x, b1, hb1, h1⟩ := s.sample_spec
  obtain ⟨b2, -, h2⟩ := State.wait_spec { s with bus := b1 } .tDebounce
  obtain ⟨y, b3, hb3, h3⟩ := State.sample_spec { s with bus := b2 }
  obtain ⟨b4, hb4, h4⟩ := State.enterPowerDownWait_spec { s with bus := b3 }
  obtain ⟨b5, hb5, h5⟩ := State.writePins_spec { s with bus := b3 } (s.shadow ||| s.cfg.mPdReq)
  simp only [State.evalOn, h1, h2, h3]
  split
  · split
    · exact ⟨b4, hb4, .inr (.inl h4)⟩
    · exact ⟨b3, hb3, .inl rfl⟩
  · split
    · split
      · exact ⟨b5, hb5, .inr (.inr (by simp only [h5]))⟩
      · exact ⟨b3, hb3, .inl rfl⟩
    · exact ⟨b1, hb1, .inl rfl⟩

/-- R167: nothing but samples, or the entry to PowerDownWait. -/
theorem State.evalPowerDownRequested_cases (s : State) : ∃ b : Bus, b.idle ∧
    (s.evalPowerDownRequested = { s with bus := b } ∨
      s.evalPowerDownRequested = { s with
        bus := b, shadow := s.shadow &&& ~~~s.cfg.mPdReq, countdown := s.cfg.nShutdown,
        state := .powerDownWait }) := by
  obtain ⟨x, b, hb, hc⟩ := s.confirm_spec (down s.cfg)
  obtain ⟨b1, hb1, h1⟩ := State.enterPowerDownWait_spec { s with bus := b }
  simp only [State.evalPowerDownRequested, hc]
  split
  · exact ⟨b1, hb1, .inr h1⟩
  · exact ⟨b, hb, .inl rfl⟩

/-- R170, R172: the countdown goes on, or it ends in the power cut and a guard loop that ends. -/
theorem State.evalPowerDownWait_cases {s t : State} (h : s.evalPowerDownWait = some t) :
    (s.countdown - 1 ≠ 0 ∧ t = { s with countdown := s.countdown - 1 }) ∨
      (s.countdown - 1 = 0 ∧ ∃ b : Bus, b.idle ∧ t = { s with
        bus := b, shadow := s.shadow &&& ~~~s.cfg.mDc &&& ~~~s.cfg.mFan, countdown := s.countdown - 1,
        guardCnt := 0, state := .off }) := by
  simp only [State.evalPowerDownWait] at h
  split at h
  · next h0 =>
    obtain ⟨b, hb, hcut⟩ := State.cutPower_spec { s with countdown := s.countdown - 1 }
    split at h
    · next u hg =>
      rw [hcut] at hg
      obtain ⟨b2, hb2, rfl⟩ := State.guard_spec _ u hb hg
      cases h
      exact .inr ⟨h0, b2, hb2, rfl⟩
    · cases h
  · next h0 => cases h; exact .inl ⟨h0, rfl⟩

/-! ## The invariant of the record -/

namespace State.Kept

variable {s t : State}

/-- The window of the shutdown countdown is never empty (R11). -/
theorem nShutdown_ne_zero (h : s.Kept) : s.cfg.nShutdown ≠ 0 := by
  obtain ⟨-, -, -, -, hShutdown, -⟩ := (config_valid_iff _).mp h.1
  rw [← counter_ne_zero_iff] at hShutdown
  simpa using hShutdown

/-- The invariant does not look at the bus, the result registers, the phase, the shadow, the blink phase or the
pending words. -/
theorem congr (h : s.Kept) (hcfg : t.cfg = s.cfg) (hblink : t.blinkCnt = s.blinkCnt)
    (hcount : t.countdown = s.countdown) (hguard : t.guardCnt = s.guardCnt) (hstate : t.state = s.state) :
    t.Kept := by
  unfold State.Kept at h ⊢
  rwa [hcfg, hblink, hcount, hguard, hstate]

/-- Any sequencer state but PowerDownWait may be taken up, with any countdown within the window. -/
theorem leave (h : s.Kept) (hcfg : t.cfg = s.cfg) (hblink : t.blinkCnt = s.blinkCnt)
    (hcount : t.countdown ≤ s.cfg.nShutdown) (hguard : t.guardCnt = 0) (hstate : t.state ≠ .powerDownWait) :
    t.Kept := by
  obtain ⟨hvalid, hlt, -, -, -⟩ := h
  exact ⟨hcfg ▸ hvalid, hcfg ▸ hblink ▸ hlt, hcfg ▸ hcount, hguard, fun hs => absurd hs hstate⟩

/-- PowerDownWait may be entered with the whole window to go (R164, R168). -/
theorem load (h : s.Kept) (hcfg : t.cfg = s.cfg) (hblink : t.blinkCnt = s.blinkCnt)
    (hcount : t.countdown = s.cfg.nShutdown) (hguard : t.guardCnt = s.guardCnt) : t.Kept := by
  obtain ⟨hvalid, hlt, -, hzero, -⟩ := id h
  exact ⟨hcfg ▸ hvalid, hcfg ▸ hblink ▸ hlt, by simp [hcount, hcfg], hguard.trans hzero,
    fun _ => hcount ▸ nShutdown_ne_zero h⟩

theorem blinkAdvance (h : s.Kept) : s.blinkAdvance.Kept := by
  obtain ⟨hvalid, hlt, hcount, hguard, hpdw⟩ := h
  refine ⟨hvalid, ?_, hcount, hguard, hpdw⟩
  simp only [State.blinkAdvance]
  split
  · bv_omega
  · bv_omega

theorem render (h : s.Kept) : s.blinkAdvance.render.Kept := by
  obtain ⟨b, -, hr⟩ := s.render_spec
  rw [hr]
  exact h.blinkAdvance.congr rfl rfl rfl rfl rfl

theorem endTick (h : s.Kept) : s.endTick.Kept := by
  obtain ⟨b, -, he⟩ := s.endTick_spec
  rw [he]
  exact h.congr rfl rfl rfl rfl rfl

theorem evalOff (h : s.Kept) : s.evalOff.Kept := by
  obtain ⟨-, -, hcount, hguard, -⟩ := id h
  obtain ⟨b, -, he | he⟩ := s.evalOff_cases <;> rw [he]
  · exact h.congr rfl rfl rfl rfl rfl
  · exact h.leave rfl rfl hcount hguard nofun

theorem evalPoweringUp (h : s.Kept) : s.evalPoweringUp.Kept := by
  obtain ⟨-, -, hcount, hguard, -⟩ := id h
  obtain ⟨b, -, he | he⟩ := s.evalPoweringUp_cases <;> rw [he]
  · exact h.congr rfl rfl rfl rfl rfl
  · exact h.leave rfl rfl hcount hguard nofun

theorem evalOn (h : s.Kept) : s.evalOn.Kept := by
  obtain ⟨-, -, hcount, hguard, -⟩ := id h
  obtain ⟨b, -, he | he | he⟩ := s.evalOn_cases <;> rw [he]
  · exact h.congr rfl rfl rfl rfl rfl
  · exact h.load rfl rfl rfl rfl
  · exact h.leave rfl rfl hcount hguard nofun

theorem evalPowerDownRequested (h : s.Kept) : s.evalPowerDownRequested.Kept := by
  obtain ⟨b, -, he | he⟩ := s.evalPowerDownRequested_cases <;> rw [he]
  · exact h.congr rfl rfl rfl rfl rfl
  · exact h.load rfl rfl rfl rfl

/-- The decrement never wraps, since the countdown is not 0 in PowerDownWait (R170, R181). -/
theorem evalPowerDownWait (h : s.Kept) (hs : s.state = .powerDownWait) (he : s.evalPowerDownWait = some t) :
    t.Kept := by
  obtain ⟨hvalid, hlt, hcount, hguard, hpdw⟩ := id h
  have hne : s.countdown ≠ 0 := hpdw hs
  have hle : s.countdown - 1 ≤ s.cfg.nShutdown := by bv_omega
  obtain ⟨hnext, rfl⟩ | ⟨-, b, -, rfl⟩ := State.evalPowerDownWait_cases he
  · exact ⟨hvalid, hlt, hle, hguard, fun _ => hnext⟩
  · exact h.leave rfl rfl hle rfl nofun

/-- TICK: the render keeps the invariant, then the evaluation of each sequencer state, then the tick wait. -/
theorem execTick (h : s.Kept) (ht : execTick s = .next t) : t.Kept := by
  have hr : s.blinkAdvance.render.Kept := h.render
  simp only [Machine.execTick] at ht
  split at ht
  case h_1 => cases ht; exact hr.evalOff.endTick
  case h_2 => cases ht; exact hr.evalPoweringUp.endTick
  case h_3 => cases ht; exact hr.evalOn.endTick
  case h_4 => cases ht; exact hr.evalPowerDownRequested.endTick
  case h_5 hs =>
    split at ht
    · next he => cases ht; exact (hr.evalPowerDownWait hs he).endTick
    · cases ht

/-- Every command keeps the invariant: TICK by its evaluation, any other as it leaves the sequencer's fields alone. -/
theorem exec {i : Instr} (h : s.Kept) (hx : exec i s = .next t) : t.Kept := by
  by_cases hi : i = .tick
  · subst hi
    exact h.execTick hx
  · rw [exec_frame hi hx]
    exact h.congr rfl rfl rfl rfl rfl

/-- Taking a word off the pending list keeps the invariant, so a step keeps it whichever command it runs. -/
theorem step (h : s.Kept) (hx : step s = .next t) : t.Kept := by
  obtain ⟨-, ⟨-, hown⟩ | ⟨w, rest, i, -, -, hword⟩⟩ := step_next s t hx
  · exact h.exec hown
  · have hpop : ({ s with pending := rest } : State).Kept := h.congr rfl rfl rfl rfl rfl
    exact hpop.exec hword

end State.Kept

end Sys2Proof.Machine

namespace Sys2Proof.Scope

open Sys2Proof.Machine

/-- Settles O7: with an accepted record, the step looks at the head of the pending list only. -/
theorem stepRunsTheDecodedCommand : Obligations.StepRunsTheDecodedCommand :=
  fun _ _ _ _ => step_of_pending

/-- Settles O10, by the three outcomes of the record check in their order. -/
theorem illRecordIsRefused : Obligations.IllRecordIsRefused := fun _ =>
  ⟨fun hbad => step_of_recordRefusal (State.recordRefusal_of_not_meetsR11 hbad),
    fun hc hout => step_of_recordRefusal (State.recordRefusal_of_not_countersInRange hc hout),
    State.recordRefusal_of_countersInRange⟩

/-- Settles O58, by the step lemma of the invariant. -/
theorem everyStepKeepsTheRecord : Obligations.EveryStepKeepsTheRecord :=
  fun _ _ => State.Kept.step

end Sys2Proof.Scope

/-! # The state of the block (10_state.md): the trace is never read back, the fields each command writes, the phase,
the codes of the sequencer states and the values after power-on -/

namespace Sys2Proof.Machine

open Sys2Proof

/-! ## The guard loop and the countdown, an equation per case (R170, R172) -/

section Equations

variable {s : State}

theorem guardLoop_of_timer_zero (fuel : Nat) (h : s.guardCnt = 0) : guardLoop fuel s = some s := by
  cases fuel with
  | zero => exact if_pos h
  | succ n => exact if_pos h

theorem guardLoop_zero_of_timer_ne_zero (h : s.guardCnt ≠ 0) : guardLoop 0 s = none :=
  if_neg h

theorem guardLoop_succ_of_timer_ne_zero (fuel : Nat) (h : s.guardCnt ≠ 0) :
    guardLoop (fuel + 1) s = guardLoop fuel s.guardPass :=
  if_neg h

theorem State.evalPowerDownWait_of_last (h : s.countdown - 1 = 0) :
    s.evalPowerDownWait =
      (State.cutPower { s with countdown := s.countdown - 1 }).guard.map fun u => { u with state := .off } := by
  simp only [State.evalPowerDownWait, if_pos h]
  cases State.guard _ <;> rfl

theorem State.evalPowerDownWait_of_not_last (h : s.countdown - 1 ≠ 0) :
    s.evalPowerDownWait = some { s with countdown := s.countdown - 1 } :=
  if_neg h

end Equations

/-! ## The trace is write-only (R33)

Putting a stretch of trace in front of the one a bus holds commutes with every operation: each appends to the trace
and takes its answers from elsewhere. -/

/-- The bus with the events `tr` in front of its trace. -/
def Bus.prepend (tr : List Event) (b : Bus) : Bus := { b with trace := tr ++ b.trace }

/-- The state with the events `tr` in front of its trace. -/
def State.prepend (tr : List Event) (s : State) : State := { s with bus := s.bus.prepend tr }

/-- Act on the next state of an outcome that has one. -/
def mapNext (f : State → State) : Host.Outcome State Fault Refusal → Host.Outcome State Fault Refusal
  | .next s => .next (f s)
  | .fault r => .fault r
  | .refused r => .refused r

section Trace

variable (tr : List Event) (b : Bus) (s : State)

@[simp] theorem Bus.prepend_sclDrv : (b.prepend tr).sclDrv = b.sclDrv := rfl
@[simp] theorem Bus.prepend_sdaDrv : (b.prepend tr).sdaDrv = b.sdaDrv := rfl
@[simp] theorem Bus.prepend_trace : (b.prepend tr).trace = tr ++ b.trace := rfl
@[simp] theorem Bus.prepend_env : (b.prepend tr).env = b.env := rfl

@[simp] theorem State.prepend_bus : (s.prepend tr).bus = s.bus.prepend tr := rfl
@[simp] theorem State.prepend_cfg : (s.prepend tr).cfg = s.cfg := rfl
@[simp] theorem State.prepend_phase : (s.prepend tr).phase = s.phase := rfl
@[simp] theorem State.prepend_shadow : (s.prepend tr).shadow = s.shadow := rfl
@[simp] theorem State.prepend_state : (s.prepend tr).state = s.state := rfl
@[simp] theorem State.prepend_countdown : (s.prepend tr).countdown = s.countdown := rfl
@[simp] theorem State.prepend_guardCnt : (s.prepend tr).guardCnt = s.guardCnt := rfl
@[simp] theorem State.prepend_pending : (s.prepend tr).pending = s.pending := rfl

/-- Over an empty trace, putting `tr` in front is putting it in its place. -/
theorem State.prepend_of_trace_nil (h : s.bus.trace = []) :
    s.prepend tr = { s with bus := { s.bus with trace := tr } } := by
  simp [State.prepend, Bus.prepend, h]

/-! The bus operations. -/

@[simp] theorem Bus.emit_prepend (ev : Event) : (b.prepend tr).emit ev = (b.emit ev).prepend tr := by
  simp [Bus.emit, Bus.prepend]

@[simp] theorem Bus.setDrv_prepend (l : Line) (v : Bool) :
    (b.prepend tr).setDrv l v = (b.setDrv l v).prepend tr := by
  cases l <;> rfl

@[simp] theorem Bus.release_prepend (l : Line) : (b.prepend tr).release l = (b.release l).prepend tr := by
  simp [Bus.release]

@[simp] theorem Bus.driveLow_prepend (l : Line) : (b.prepend tr).driveLow l = (b.driveLow l).prepend tr := by
  simp [Bus.driveLow]

@[simp] theorem Bus.wait_prepend (d : Delay) : (b.prepend tr).wait d = (b.wait d).prepend tr := by
  simp [Bus.wait]

/-- A level comes from the line bits and the environment, never from the trace. -/
@[simp] theorem Bus.level_prepend (l : Line) : (b.prepend tr).level l = b.level l := by
  cases l <;> rfl

@[simp] theorem Bus.read_prepend (l : Line) :
    (b.prepend tr).read l = Prod.map id (Bus.prepend tr) (b.read l) := by
  simp only [Bus.read, Bus.level_prepend]
  exact congrArg (Prod.mk _) (Bus.emit_prepend tr { b with env := (b.level l).2 } _)

@[simp] theorem Bus.writeByte_prepend (v : Byte) :
    (b.prepend tr).writeByte v = Prod.map id (Bus.prepend tr) (b.writeByte v) := by
  simp [Bus.writeByte_spec, Bus.prepend]

@[simp] theorem Bus.readByte_prepend (last : Bool) :
    (b.prepend tr).readByte last = Prod.map id (Bus.prepend tr) (b.readByte last) := by
  simp [Bus.readByte_spec, Bus.prepend]

@[simp] theorem Bus.start_prepend (a : Byte) :
    (b.prepend tr).start a = Prod.map id (Bus.prepend tr) (b.start a) := by
  simp [Bus.start_spec, Bus.prepend]

@[simp] theorem Bus.rstart_prepend (a : Byte) :
    (b.prepend tr).rstart a = Prod.map id (Bus.prepend tr) (b.rstart a) := by
  simp [Bus.rstart_spec, Bus.prepend]

@[simp] theorem Bus.stop_prepend : (b.prepend tr).stop = b.stop.prepend tr := by
  simp [Bus.stop_spec, Bus.prepend]

@[simp] theorem Bus.checkIdle_prepend :
    (b.prepend tr).checkIdle = Prod.map id (Bus.prepend tr) b.checkIdle := by
  simp [Bus.checkIdle_spec, Bus.prepend]

@[simp] theorem Bus.writeTransaction_prepend (c : Config) (r v : Byte) :
    (b.prepend tr).writeTransaction c r v = Prod.map id (Bus.prepend tr) (b.writeTransaction c r v) := by
  simp [Bus.writeTransaction_spec, Bus.prepend]

/-- A read answers the same byte in both of its cases, the data levels and the draw of a failed read. -/
@[simp] theorem Bus.readTransaction_prepend (c : Config) (r : Byte) :
    (b.prepend tr).readTransaction c r =
      Prod.map id (Prod.map id (Bus.prepend tr)) (b.readTransaction c r) := by
  simp only [Bus.readTransaction_spec, Bus.prepend_env]
  split
  · next h => simp [h, Bus.prepend]
  · next h => simp [h, Bus.prepend]

@[simp] theorem Bus.rgpio_prepend (c : Config) :
    (b.prepend tr).rgpio c = Prod.map id (Prod.map id (Bus.prepend tr)) (b.rgpio c) :=
  Bus.readTransaction_prepend ..

/-! The operations of the driver and of the sequencer on the state. -/

@[simp] theorem State.configWrite_prepend (r : Reg) (v : Byte) :
    (s.prepend tr).configWrite r v = (s.configWrite r v).prepend tr := by
  simp [State.configWrite, State.onBus, State.prepend]

@[simp] theorem State.wgpio_prepend (v : Byte) :
    (s.prepend tr).wgpio v = Prod.map id (State.prepend tr) (s.wgpio v) := by
  simp [State.wgpio, State.prepend]

@[simp] theorem State.configWrites_prepend : (s.prepend tr).configWrites = s.configWrites.prepend tr := by
  simp [State.configWrites]

@[simp] theorem State.blinkAdvance_prepend : (s.prepend tr).blinkAdvance = s.blinkAdvance.prepend tr := rfl

@[simp] theorem State.writePins_prepend (v : Byte) :
    (s.prepend tr).writePins v = (s.writePins v).prepend tr := by
  simp [State.writePins]

@[simp] theorem State.render_prepend : (s.prepend tr).render = s.render.prepend tr :=
  s.writePins_prepend tr s.renderValue

@[simp] theorem State.wait_prepend (d : Delay) : (s.prepend tr).wait d = (s.wait d).prepend tr := by
  simp [State.wait, State.onBus, State.prepend]

@[simp] theorem State.sample_prepend :
    (s.prepend tr).sample = Prod.map id (State.prepend tr) s.sample := by
  simp [State.sample, State.prepend]

@[simp] theorem State.confirm_prepend (P : Byte → Bool) :
    (s.prepend tr).confirm P = Prod.map id (State.prepend tr) (s.confirm P) := by
  simp only [State.confirm, State.sample_prepend, State.wait_prepend, Prod.map_fst, Prod.map_snd, id]
  split <;> rfl

@[simp] theorem State.enterPowerDownWait_prepend :
    (s.prepend tr).enterPowerDownWait = s.enterPowerDownWait.prepend tr := by
  simp only [State.enterPowerDownWait, State.writePins_prepend, State.prepend_cfg, State.prepend_shadow]
  rfl

@[simp] theorem State.evalOff_prepend : (s.prepend tr).evalOff = s.evalOff.prepend tr := by
  simp only [State.evalOff, State.confirm_prepend, State.writePins_prepend, State.wait_prepend,
    State.prepend_cfg, State.prepend_shadow, Prod.map_fst, Prod.map_snd, id]
  split <;> rfl

@[simp] theorem State.evalPoweringUp_prepend :
    (s.prepend tr).evalPoweringUp = s.evalPoweringUp.prepend tr := by
  simp only [State.evalPoweringUp, State.confirm_prepend, State.prepend_cfg, Prod.map_fst, Prod.map_snd, id]
  split <;> rfl

@[simp] theorem State.evalOn_prepend : (s.prepend tr).evalOn = s.evalOn.prepend tr := by
  simp only [State.evalOn, State.sample_prepend, State.wait_prepend, State.enterPowerDownWait_prepend,
    State.writePins_prepend, State.prepend_cfg, State.prepend_shadow, Prod.map_fst, Prod.map_snd, id]
  split
  · split <;> rfl
  · split
    · split <;> rfl
    · rfl

@[simp] theorem State.evalPowerDownRequested_prepend :
    (s.prepend tr).evalPowerDownRequested = s.evalPowerDownRequested.prepend tr := by
  simp only [State.evalPowerDownRequested, State.confirm_prepend, State.enterPowerDownWait_prepend,
    State.prepend_cfg, Prod.map_fst, Prod.map_snd, id]
  split <;> rfl

@[simp] theorem State.guardPass_prepend : (s.prepend tr).guardPass = s.guardPass.prepend tr := by
  simp only [State.guardPass, State.wait, State.onBus, State.sample_prepend, State.prepend_bus,
    Bus.wait_prepend, Prod.map_fst, Prod.map_snd, id]
  rfl

/-- The loop is left by the guard timer, which the samples set. -/
theorem guardLoop_prepend (fuel : Nat) :
    guardLoop fuel (s.prepend tr) = (guardLoop fuel s).map (State.prepend tr) := by
  induction fuel generalizing s with
  | zero =>
    by_cases h0 : s.guardCnt = 0
    · simp [guardLoop_of_timer_zero, h0]
    · rw [guardLoop_zero_of_timer_ne_zero h0, guardLoop_zero_of_timer_ne_zero (s := s.prepend tr) h0]
      rfl
  | succ n ih =>
    by_cases h0 : s.guardCnt = 0
    · simp [guardLoop_of_timer_zero, h0]
    · rw [guardLoop_succ_of_timer_ne_zero n h0, guardLoop_succ_of_timer_ne_zero (s := s.prepend tr) n h0,
        State.guardPass_prepend, ih]

/-- How many passes are followed depends on the environment's answers alone. -/
@[simp] theorem State.guard_prepend : (s.prepend tr).guard = s.guard.map (State.prepend tr) :=
  guardLoop_prepend tr { s with guardCnt := s.cfg.nGuard } s.bus.env.guardFuel

@[simp] theorem State.cutPower_prepend : (s.prepend tr).cutPower = s.cutPower.prepend tr := by
  simp [State.cutPower]

@[simp] theorem State.evalPowerDownWait_prepend :
    (s.prepend tr).evalPowerDownWait = s.evalPowerDownWait.map (State.prepend tr) := by
  by_cases h0 : s.countdown - 1 = 0
  · have hcut : State.cutPower { s.prepend tr with countdown := (s.prepend tr).countdown - 1 } =
        (State.cutPower { s with countdown := s.countdown - 1 }).prepend tr :=
      State.cutPower_prepend tr { s with countdown := s.countdown - 1 }
    rw [State.evalPowerDownWait_of_last h0, State.evalPowerDownWait_of_last (s := s.prepend tr) h0, hcut,
      State.guard_prepend]
    cases State.guard _ <;> rfl
  · rw [State.evalPowerDownWait_of_not_last h0, State.evalPowerDownWait_of_not_last (s := s.prepend tr) h0]
    rfl

@[simp] theorem State.endTick_prepend : (s.prepend tr).endTick = s.endTick.prepend tr := by
  simp only [State.endTick, State.wait_prepend]
  rfl

/-! The commands and the step. -/

theorem execTick_prepend : execTick (s.prepend tr) = mapNext (State.prepend tr) (execTick s) := by
  simp only [execTick, State.blinkAdvance_prepend, State.render_prepend, State.prepend_state]
  split
  case h_1 | h_2 | h_3 | h_4 => simp [mapNext]
  case h_5 =>
    rw [State.evalPowerDownWait_prepend]
    cases State.evalPowerDownWait _ with
    | none => rfl
    | some t => simp [mapNext]

/-- Every command answers the same whatever stands in front of its trace. -/
theorem exec_prepend (i : Instr) : exec i (s.prepend tr) = mapNext (State.prepend tr) (exec i s) := by
  cases i with
  | lrel | ldrv | lrd | start | rstart | stop | wrb | rdb | rgpio =>
    simp [exec, mapNext, execLrel, execLdrv, execLrd, execStart, execRstart, execStop, execWrb, execRdb, execRgpio,
      State.onBus, State.finish, State.finishData, State.prepend]
  | init => simp [exec, mapNext, execInit, State.finish, State.prepend]
  | wreg r d =>
    simp only [exec, execWreg, State.prepend_cfg]
    split
    · rfl
    · simp [mapNext, State.onBus, State.finish, State.prepend]
  | rreg r =>
    simp only [exec, execRreg, State.prepend_cfg]
    split
    · rfl
    · simp [mapNext, State.onBus, State.finishData, State.prepend]
  | config => simp only [exec, execConfig, State.configWrites_prepend]; rfl
  | wgpio d => simp only [exec, execWgpio, State.wgpio_prepend]; rfl
  | tick => exact execTick_prepend tr s

/-- So does a step: neither the record check nor the choice of the command looks at the trace. -/
theorem step_prepend : step (s.prepend tr) = mapNext (State.prepend tr) (step s) := by
  have hcheck : (s.prepend tr).recordRefusal = s.recordRefusal := rfl
  simp only [step, hcheck, State.prepend_pending, State.prepend_phase]
  split
  · rfl
  · split
    · exact exec_prepend ..
    · next w rest _ =>
      split
      · exact exec_prepend tr { s with pending := rest } _
      · rfl

end Trace

theorem mapNext_eq_next {f : State → State} {x : Host.Outcome State Fault Refusal} {t : State}
    (h : mapNext f x = .next t) : ∃ u, x = .next u ∧ f u = t := by
  cases x with
  | next u => exact ⟨u, rfl, Host.Outcome.next.inj h⟩
  | fault | refused => cases h

/-! ## The fields each command writes (R37) -/

section Columns

variable {s t : State}

/-- A TICK that completes rendered, evaluated the sequencer state it started in, and waited (R150). -/
theorem execTick_cases (h : execTick s = .next t) : ∃ u, t = u.endTick ∧
    ((s.state = .off ∧ u = s.blinkAdvance.render.evalOff) ∨
      (s.state = .poweringUp ∧ u = s.blinkAdvance.render.evalPoweringUp) ∨
      (s.state = .on ∧ u = s.blinkAdvance.render.evalOn) ∨
      (s.state = .powerDownRequested ∧ u = s.blinkAdvance.render.evalPowerDownRequested) ∨
      (s.state = .powerDownWait ∧ s.blinkAdvance.render.evalPowerDownWait = some u)) := by
  have hstate : s.blinkAdvance.render.state = s.state := rfl
  simp only [execTick, hstate] at h
  split at h
  case h_1 hs => cases h; exact ⟨_, rfl, .inl ⟨hs, rfl⟩⟩
  case h_2 hs => cases h; exact ⟨_, rfl, .inr (.inl ⟨hs, rfl⟩)⟩
  case h_3 hs => cases h; exact ⟨_, rfl, .inr (.inr (.inl ⟨hs, rfl⟩))⟩
  case h_4 hs => cases h; exact ⟨_, rfl, .inr (.inr (.inr (.inl ⟨hs, rfl⟩)))⟩
  case h_5 hs =>
    split at h
    · next u hu => cases h; exact ⟨u, rfl, .inr (.inr (.inr (.inr ⟨hs, hu⟩)))⟩
    · cases h

/-- The fields TICK's column of R37 leaves blank, with the parameters and the pending words. -/
def State.besidesTick (s : State) : Byte × Bool × Phase × Config × List CommandWord :=
  (s.rData, s.rBusfault, s.phase, s.cfg, s.pending)

theorem State.besidesTick_eq_iff : t.besidesTick = s.besidesTick ↔
    t.rData = s.rData ∧ t.rBusfault = s.rBusfault ∧ t.phase = s.phase ∧ t.cfg = s.cfg ∧
      t.pending = s.pending := by
  simp only [State.besidesTick, Prod.mk.injEq]

theorem State.evalOff_besidesTick (s : State) : s.evalOff.besidesTick = s.besidesTick := by
  obtain ⟨b, -, he | he⟩ := s.evalOff_cases <;> rw [he] <;> rfl

theorem State.evalPoweringUp_besidesTick (s : State) : s.evalPoweringUp.besidesTick = s.besidesTick := by
  obtain ⟨b, -, he | he⟩ := s.evalPoweringUp_cases <;> rw [he] <;> rfl

theorem State.evalOn_besidesTick (s : State) : s.evalOn.besidesTick = s.besidesTick := by
  obtain ⟨b, -, he | he | he⟩ := s.evalOn_cases <;> rw [he] <;> rfl

theorem State.evalPowerDownRequested_besidesTick (s : State) :
    s.evalPowerDownRequested.besidesTick = s.besidesTick := by
  obtain ⟨b, -, he | he⟩ := s.evalPowerDownRequested_cases <;> rw [he] <;> rfl

theorem State.evalPowerDownWait_besidesTick (h : s.evalPowerDownWait = some t) :
    t.besidesTick = s.besidesTick := by
  obtain ⟨-, rfl⟩ | ⟨-, b, -, rfl⟩ := State.evalPowerDownWait_cases h
  · rfl
  · rfl

/-- TICK writes no field its column leaves blank: neither its render and tick wait do, nor any evaluation. -/
theorem execTick_besidesTick (h : execTick s = .next t) : t.besidesTick = s.besidesTick := by
  have hrender : s.blinkAdvance.render.besidesTick = s.besidesTick := rfl
  rw [← hrender]
  obtain ⟨u, rfl, ⟨-, rfl⟩ | ⟨-, rfl⟩ | ⟨-, rfl⟩ | ⟨-, rfl⟩ | ⟨-, hu⟩⟩ := execTick_cases h
  · exact State.evalOff_besidesTick _
  · exact State.evalPoweringUp_besidesTick _
  · exact State.evalOn_besidesTick _
  · exact State.evalPowerDownRequested_besidesTick _
  · exact State.evalPowerDownWait_besidesTick (t := u) hu

/-- Reading a line leaves both lines as they are (R92). -/
theorem execLrd_lines {l : Line} (h : execLrd l s = .next t) :
    t.bus.sclDrv = s.bus.sclDrv ∧ t.bus.sdaDrv = s.bus.sdaDrv := by
  cases h
  exact ⟨rfl, rfl⟩

end Columns

/-! ## The phase (R25) -/

/-- INIT advances the phase by one or leaves it (R101). -/
theorem Phase.code_afterInit (p : Phase) : p.code ≤ p.afterInit.code ∧ p.afterInit.code ≤ p.code + 1 := by
  cases p <;> decide

/-- CONFIG advances the phase by one or leaves it (R135). -/
theorem Phase.code_afterConfig (p : Phase) :
    p.code ≤ p.afterConfig.code ∧ p.afterConfig.code ≤ p.code + 1 := by
  cases p <;> decide

theorem execInit_phase {s t : State} (h : execInit s = .next t) : t.phase = s.phase.afterInit := by
  cases h
  rfl

theorem execConfig_phase {s t : State} (h : execConfig s = .next t) : t.phase = s.phase.afterConfig := by
  cases h
  rfl

/-! ## Power-on (R38) -/

/-- After power-on the shadow holds no pin. -/
theorem State.not_pinSet_resetWith (c : Config) (p : PinPos) : ¬ (State.resetWith c).pinSet p := by
  simp [State.pinSet, State.resetWith]

/-- The counters are 0 after power-on, so the windows of legal parameters hold them (R11, R30 to R32). -/
theorem State.kept_resetWith {c : Config} (h : c.valid = true) : (State.resetWith c).Kept := by
  obtain ⟨-, -, -, hBlink, -, -⟩ := (config_valid_iff c).mp h
  have hlt : (0 : Counter) < c.nBlink := by bv_omega
  have hle : (0 : Counter) ≤ c.nShutdown := by bv_omega
  exact ⟨h, hlt, hle, rfl, nofun⟩

/-- The block powers on in Off with an empty shadow, which are the outputs of Off (R178). -/
theorem State.outputsMatch_resetWith (c : Config) : (State.resetWith c).OutputsMatch := by
  have hstate : (State.resetWith c).state = .off := rfl
  simp [State.OutputsMatch, State.not_pinSet_resetWith, hstate]

end Sys2Proof.Machine

namespace Sys2Proof.BlockState

open Sys2Proof.Machine

/-- Settles O57: the step from the empty trace answers the events appended, and any trace can be put in front of it. -/
theorem traceIsNeverReadBack : Obligations.TraceIsNeverReadBack := by
  intro s t tr h
  let s0 : State := { s with bus := { s.bus with trace := [] } }
  have hs : s = s0.prepend s.bus.trace := (s0.prepend_of_trace_nil s.bus.trace rfl).symm
  have htr : { s with bus := { s.bus with trace := tr } } = s0.prepend tr :=
    (s0.prepend_of_trace_nil tr rfl).symm
  have hstep : mapNext (State.prepend s.bus.trace) (step s0) = .next t := by
    rw [← step_prepend, ← hs, h]
  obtain ⟨u, hu, rfl⟩ := mapNext_eq_next hstep
  refine ⟨u.bus.trace, rfl, ?_⟩
  rw [htr, step_prepend, hu]
  rfl

/-- Settles O55, by the frame of each command: those that return a status only, those that return a byte, and INIT,
CONFIG, WGPIO and TICK with their own columns. -/
theorem eachCommandWritesItsFieldsOnly : Obligations.EachCommandWritesItsFieldsOnly := by
  intro i s t h
  cases i with
  | lrel | ldrv | start | rstart | stop | wrb =>
    have ht : t = { s with bus := t.bus, rOk := t.rOk } := by cases h; rfl
    rw [ht]
    simp
  | wreg r d =>
    rw [execWreg_frame h]
    simp
  | lrd l =>
    have ht : t = { s with bus := t.bus, rOk := t.rOk, rData := t.rData } := by cases h; rfl
    have hlines := execLrd_lines h
    rw [ht]
    simp [hlines]
  | rdb | rgpio =>
    have ht : t = { s with bus := t.bus, rOk := t.rOk, rData := t.rData } := by cases h; rfl
    rw [ht]
    simp
  | rreg r =>
    rw [execRreg_frame h]
    simp
  | init =>
    have ht : t = { s with bus := t.bus, rOk := t.rOk, rBusfault := t.rBusfault, phase := t.phase } := by
      cases h; rfl
    rw [ht]
    simp
  | config =>
    rw [execConfig_frame h]
    simp
  | wgpio d =>
    have ht : t = { s with bus := t.bus, rOk := t.rOk, shadow := t.shadow } := by cases h; rfl
    rw [ht]
    simp
  | tick =>
    obtain ⟨hdata, hfault, hphase, hcfg, hpending⟩ := State.besidesTick_eq_iff.mp (execTick_besidesTick h)
    simp [hdata, hfault, hphase, hcfg, hpending]

/-- A command leaves the phase or advances it by one: only INIT and CONFIG write it. -/
theorem exec_phase_code {i : Instr} {s t : State} (h : exec i s = .next t) :
    s.phase.code ≤ t.phase.code ∧ t.phase.code ≤ s.phase.code + 1 := by
  by_cases hinit : i = .init
  · subst hinit
    rw [execInit_phase h]
    exact s.phase.code_afterInit
  by_cases hconfig : i = .config
  · subst hconfig
    rw [execConfig_phase h]
    exact s.phase.code_afterConfig
  obtain ⟨-, -, -, -, -, hphase, -⟩ := eachCommandWritesItsFieldsOnly i s t h
  rw [hphase hinit hconfig]
  exact ⟨le_rfl, Nat.le_succ _⟩

/-- Settles O56: the step runs one command, and taking a word off the pending list does not touch the phase. -/
theorem phaseNeverGoesBack : Obligations.PhaseNeverGoesBack := by
  intro s t h
  obtain ⟨-, ⟨-, hown⟩ | ⟨w, rest, i, -, -, hword⟩⟩ := step_next s t h
  · exact exec_phase_code hown
  · exact exec_phase_code (s := { s with pending := rest }) hword

/-- Settles O11, by the five states one after another and the eight codes. -/
theorem sequencerStateCodes : Obligations.SequencerStateCodes := by
  refine ⟨fun st => ?_, by decide, rfl, rfl, rfl, rfl, rfl⟩
  cases st <;> rfl

/-- Settles O12: every field of `State.resetWith` is given by its definition. -/
theorem resetValues : Obligations.ResetValues := by
  intro c
  simp [State.resetWith]

/-- Settles O13: the record is kept, nothing is pending, the bus is idle, and the outputs are those of Off. -/
theorem resetMeetsTheInvariants : Obligations.ResetMeetsTheInvariants := fun c h =>
  have hkept : (State.resetWith c).Kept := State.kept_resetWith h
  ⟨hkept, hkept, rfl, ⟨rfl, rfl⟩, fun _ => rfl, State.outputsMatch_resetWith c⟩

end Sys2Proof.BlockState

/-! # Encoding (30_encoding.md): the words of the commands, the reserved words, the byte frames and the transactions on
the wire -/

namespace Sys2Proof

/-! ## The three fields of a word (R71) -/

/-- A word is its three fields. -/
theorem packWord_fields (w : CommandWord) : packWord (opField w) (auxField w) (dataField w) = w := by
  have hhead : opField w ++ auxField w = w.extractLsb' 8 8 :=
    BitVec.extractLsb'_append_extractLsb'_eq_extractLsb' rfl
  have hword : w.extractLsb' 8 8 ++ dataField w = w.extractLsb' 0 16 :=
    BitVec.extractLsb'_append_extractLsb'_eq_extractLsb' rfl
  rw [packWord, hhead, hword, BitVec.extractLsb'_eq_self]

theorem eq_packWord_iff (w : CommandWord) (o a : BitVec 4) (d : Byte) :
    w = packWord o a d ↔ opField w = o ∧ auxField w = a ∧ dataField w = d := by
  constructor
  · rintro rfl
    simp
  · rintro ⟨rfl, rfl, rfl⟩
    exact (packWord_fields w).symm

theorem opField_and (v w : CommandWord) : opField (v &&& w) = opField v &&& opField w :=
  BitVec.extractLsb'_and

theorem auxField_and (v w : CommandWord) : auxField (v &&& w) = auxField v &&& auxField w :=
  BitVec.extractLsb'_and

theorem dataField_and (v w : CommandWord) : dataField (v &&& w) = dataField v &&& dataField w :=
  BitVec.extractLsb'_and

/-- The twelve bits below the opcode are the other two fields. -/
theorem extractLsb'_low_eq_zero_iff (w : CommandWord) :
    w.extractLsb' 0 12 = 0 ↔ auxField w = 0 ∧ dataField w = 0 := by
  have hlow : auxField w ++ dataField w = w.extractLsb' 0 12 :=
    BitVec.extractLsb'_append_extractLsb'_eq_extractLsb' rfl
  rw [← hlow]
  constructor
  · intro h
    constructor
    · rw [← BitVec.extractLsb'_append_eq_left (a := auxField w) (b := dataField w), h]; rfl
    · rw [← BitVec.extractLsb'_append_eq_right (a := auxField w) (b := dataField w), h]; rfl
  · rintro ⟨haux, hdata⟩
    rw [haux, hdata]
    rfl

/-- Where the fixed bits of formats L and F are zero, `aux` is the operand's bit (R72). -/
theorem append_bit_of_fixed_zero : ∀ a : BitVec 4, a.extractLsb' 1 3 = 0 → 0#3 ++ BitVec.ofBool a[0] = a := by
  decide

theorem fixed_append_bit : ∀ x : Bool, (0#3 ++ BitVec.ofBool x).extractLsb' 1 3 = 0 := by decide

theorem getElem_append_bit : ∀ x : Bool, (0#3 ++ BitVec.ofBool x)[0] = x := by decide

@[simp] theorem lineOfBit_bit (l : Line) : lineOfBit l.bit = l := by cases l <;> rfl

@[simp] theorem bit_lineOfBit (x : Bool) : (lineOfBit x).bit = x := by cases x <;> rfl

/-! ## The register operands (R53, R80) -/

theorem isRegister_iff (r : RegIndex) : isRegister r = true ↔ r.toNat ≤ 0x0A := decide_eq_true_iff

theorem isWritable_iff : ∀ r : RegIndex, isWritable r = true ↔ r.toNat ≤ 0x08 := by decide

/-! ## The command a word carries under each format (R72, R80) -/

section Formats

variable (w : CommandWord) (j : Instr)

theorem ite_eq_command_iff {p : Prop} [Decidable p] {i : Instr} {d : Decoded} (hd : d ≠ .command j) :
    (if p then Decoded.command i else d) = .command j ↔ p ∧ i = j := by
  by_cases hp : p <;> simp [hp, hd]

theorem formatN_eq_command_iff (i : Instr) :
    formatN i w = .command j ↔ (auxField w = 0 ∧ dataField w = 0) ∧ i = j :=
  ite_eq_command_iff j nofun

theorem formatBit_eq_command_iff (mk : Bool → Instr) :
    formatBit mk w = .command j ↔
      ((auxField w).extractLsb' 1 3 = 0 ∧ dataField w = 0) ∧ mk (auxField w)[0] = j :=
  ite_eq_command_iff j nofun

theorem formatB_eq_command_iff (mk : Byte → Instr) :
    formatB mk w = .command j ↔ auxField w = 0 ∧ mk (dataField w) = j :=
  ite_eq_command_iff j nofun

theorem formatR_eq_command_iff (mk : RegIndex → Instr) :
    formatR mk w = .command j ↔ dataField w = 0 ∧ (auxField w).toNat ≤ 0x0A ∧ mk (auxField w) = j := by
  by_cases hdata : dataField w = 0
  · rw [formatR, if_neg (not_not_intro hdata), and_iff_right hdata, ← isRegister_iff]
    exact ite_eq_command_iff j nofun
  · rw [formatR, if_pos hdata]
    exact ⟨nofun, fun h => absurd h.1 hdata⟩

theorem formatRB_eq_command_iff (mk : RegIndex → Byte → Instr) :
    formatRB mk w = .command j ↔ (auxField w).toNat ≤ 0x08 ∧ mk (auxField w) (dataField w) = j := by
  rw [← isWritable_iff]
  exact ite_eq_command_iff j (by split <;> nofun)

end Formats

theorem Decoded.exists_reserved_iff (x : Decoded) : (∃ why, x = .reserved why) ↔ ¬ ∃ i, x = .command i := by
  cases x <;> simp

/-! ## The format of each opcode (R72, R74) -/

/-- The opcodes by their formats: none, N, L and F, B, RB, R. -/
theorem opcode_cases : ∀ o : BitVec 4,
    o = 0x0 ∨ o ∈ [0x4#4, 0x7#4, 0xC#4, 0xE#4, 0xF#4] ∨ o ∈ [0x1#4, 0x2#4, 0x3#4, 0x9#4] ∨
      o ∈ [0x5#4, 0x6#4, 0x8#4, 0xD#4] ∨ o = 0xA ∨ o = 0xB := by decide

section Opcodes

variable {w : CommandWord}

theorem decode_of_opcode_zero (h : opField w = 0x0) : decode w = .reserved .opcodeZero := by
  simp [decode, h]

theorem decode_of_opcode_formatN (h : opField w ∈ [0x4#4, 0x7#4, 0xC#4, 0xE#4, 0xF#4]) :
    ∃ i, decode w = formatN i w ∧ encode i = packWord (opField w) 0 0 ∧ i.wellFormed = true := by
  simp only [List.mem_cons, List.not_mem_nil, or_false] at h
  obtain h | h | h | h | h := h <;> rw [h]
  · exact ⟨.init, by simp [decode, h], rfl, rfl⟩
  · exact ⟨.stop, by simp [decode, h], rfl, rfl⟩
  · exact ⟨.config, by simp [decode, h], rfl, rfl⟩
  · exact ⟨.rgpio, by simp [decode, h], rfl, rfl⟩
  · exact ⟨.tick, by simp [decode, h], rfl, rfl⟩

theorem decode_of_opcode_formatBit (h : opField w ∈ [0x1#4, 0x2#4, 0x3#4, 0x9#4]) :
    ∃ mk : Bool → Instr, decode w = formatBit mk w ∧
      ∀ x, encode (mk x) = packWord (opField w) (0#3 ++ BitVec.ofBool x) 0 ∧ (mk x).wellFormed = true := by
  simp only [List.mem_cons, List.not_mem_nil, or_false] at h
  obtain h | h | h | h := h <;> rw [h]
  · exact ⟨fun x => .lrel (lineOfBit x), by simp [decode, h], fun x => ⟨by simp [encode], rfl⟩⟩
  · exact ⟨fun x => .ldrv (lineOfBit x), by simp [decode, h], fun x => ⟨by simp [encode], rfl⟩⟩
  · exact ⟨fun x => .lrd (lineOfBit x), by simp [decode, h], fun x => ⟨by simp [encode], rfl⟩⟩
  · exact ⟨.rdb, by simp [decode, h], fun x => ⟨rfl, rfl⟩⟩

theorem decode_of_opcode_formatB (h : opField w ∈ [0x5#4, 0x6#4, 0x8#4, 0xD#4]) :
    ∃ mk : Byte → Instr, decode w = formatB mk w ∧
      ∀ d, encode (mk d) = packWord (opField w) 0 d ∧ (mk d).wellFormed = true := by
  simp only [List.mem_cons, List.not_mem_nil, or_false] at h
  obtain h | h | h | h := h <;> rw [h]
  · exact ⟨.start, by simp [decode, h], fun d => ⟨rfl, rfl⟩⟩
  · exact ⟨.rstart, by simp [decode, h], fun d => ⟨rfl, rfl⟩⟩
  · exact ⟨.wrb, by simp [decode, h], fun d => ⟨rfl, rfl⟩⟩
  · exact ⟨.wgpio, by simp [decode, h], fun d => ⟨rfl, rfl⟩⟩

theorem decode_of_opcode_wreg (h : opField w = 0xA) : decode w = formatRB .wreg w := by
  simp [decode, h]

theorem decode_of_opcode_rreg (h : opField w = 0xB) : decode w = formatR .rreg w := by
  simp [decode, h]

end Opcodes

/-! ## Decoding and encoding (R75, R78, R80) -/

/-- The word of a well-formed command decodes to it: its opcode selects the format, and its operand stands where the
format reads it. -/
theorem decode_encode {i : Instr} (h : i.wellFormed = true) : decode (encode i) = .command i := by
  cases i with
  | init | stop | config | rgpio | tick => rfl
  | lrel l | ldrv l | lrd l | rdb x =>
    simp [decode, encode, formatBit_eq_command_iff, fixed_append_bit, getElem_append_bit]
  | start d | rstart d | wrb d | wgpio d => simp [decode, encode, formatB_eq_command_iff]
  | wreg r d => simpa [decode, encode, formatRB_eq_command_iff, Instr.wellFormed] using h
  | rreg r => simpa [decode, encode, formatR_eq_command_iff, Instr.wellFormed] using h

/-- A word decodes only to the well-formed command whose word it is: its format fixes every bit outside the operand. -/
theorem encode_of_decode {w : CommandWord} {j : Instr} (h : decode w = .command j) :
    encode j = w ∧ j.wellFormed = true := by
  obtain hop | hop | hop | hop | hop | hop := opcode_cases (opField w)
  · rw [decode_of_opcode_zero hop] at h
    cases h
  · obtain ⟨i, hdec, henc, hwf⟩ := decode_of_opcode_formatN hop
    obtain ⟨⟨haux, hdata⟩, rfl⟩ := (formatN_eq_command_iff w j i).mp (hdec ▸ h)
    exact ⟨henc.trans ((eq_packWord_iff ..).mpr ⟨rfl, haux, hdata⟩).symm, hwf⟩
  · obtain ⟨mk, hdec, hmk⟩ := decode_of_opcode_formatBit hop
    obtain ⟨⟨haux, hdata⟩, rfl⟩ := (formatBit_eq_command_iff w j mk).mp (hdec ▸ h)
    obtain ⟨henc, hwf⟩ := hmk (auxField w)[0]
    exact ⟨henc.trans ((eq_packWord_iff ..).mpr ⟨rfl, (append_bit_of_fixed_zero _ haux).symm, hdata⟩).symm, hwf⟩
  · obtain ⟨mk, hdec, hmk⟩ := decode_of_opcode_formatB hop
    obtain ⟨haux, rfl⟩ := (formatB_eq_command_iff w j mk).mp (hdec ▸ h)
    obtain ⟨henc, hwf⟩ := hmk (dataField w)
    exact ⟨henc.trans ((eq_packWord_iff ..).mpr ⟨rfl, haux, rfl⟩).symm, hwf⟩
  · rw [decode_of_opcode_wreg hop] at h
    obtain ⟨hreg, rfl⟩ := (formatRB_eq_command_iff w j .wreg).mp h
    exact ⟨((eq_packWord_iff ..).mpr ⟨hop, rfl, rfl⟩).symm, decide_eq_true hreg⟩
  · rw [decode_of_opcode_rreg hop] at h
    obtain ⟨hdata, hreg, rfl⟩ := (formatR_eq_command_iff w j .rreg).mp h
    exact ⟨((eq_packWord_iff ..).mpr ⟨hop, rfl, hdata⟩).symm, decide_eq_true hreg⟩

/-! ## The reserved words (R79, R80) -/

section Reserved

open Machine

variable {w : CommandWord}

theorem reserved_of_opcode_formatN (h : opField w ∈ [0x4#4, 0x7#4, 0xC#4, 0xE#4, 0xF#4]) :
    reservedByFormat w ∨ reservedOperand w ↔ ¬ (auxField w = 0 ∧ dataField w = 0) := by
  simp only [reservedByFormat, reservedOperand, ne_eq, extractLsb'_low_eq_zero_iff]
  simp only [List.mem_cons, List.not_mem_nil, or_false] at h
  obtain h | h | h | h | h := h <;> simp [h]

theorem reserved_of_opcode_formatBit (h : opField w ∈ [0x1#4, 0x2#4, 0x3#4, 0x9#4]) :
    reservedByFormat w ∨ reservedOperand w ↔ ¬ ((auxField w).extractLsb' 1 3 = 0 ∧ dataField w = 0) := by
  simp only [reservedByFormat, reservedOperand, not_and_or]
  simp only [List.mem_cons, List.not_mem_nil, or_false] at h
  obtain h | h | h | h := h <;> simp [h]

theorem reserved_of_opcode_formatB (h : opField w ∈ [0x5#4, 0x6#4, 0x8#4, 0xD#4]) :
    reservedByFormat w ∨ reservedOperand w ↔ ¬ auxField w = 0 := by
  simp only [reservedByFormat, reservedOperand]
  simp only [List.mem_cons, List.not_mem_nil, or_false] at h
  obtain h | h | h | h := h <;> simp [h]

theorem reserved_of_opcode_wreg (h : opField w = 0xA) :
    reservedByFormat w ∨ reservedOperand w ↔ ¬ (auxField w).toNat ≤ 0x08 := by
  simp [reservedByFormat, reservedOperand, h]

theorem reserved_of_opcode_rreg (h : opField w = 0xB) :
    reservedByFormat w ∨ reservedOperand w ↔ ¬ (dataField w = 0 ∧ (auxField w).toNat ≤ 0x0A) := by
  simp [reservedByFormat, reservedOperand, h]
  tauto

/-- A word carries a command unless R79 or R80 reserves it, whatever its opcode's format. -/
theorem exists_decode_command_iff (w : CommandWord) :
    (∃ i, decode w = .command i) ↔ ¬ (reservedByFormat w ∨ reservedOperand w) := by
  obtain hop | hop | hop | hop | hop | hop := opcode_cases (opField w)
  · simp [decode_of_opcode_zero hop, reservedByFormat, hop]
  · obtain ⟨i, hdec, -⟩ := decode_of_opcode_formatN hop
    simp only [hdec, formatN_eq_command_iff, exists_and_left, exists_eq', and_true,
      reserved_of_opcode_formatN hop, not_not]
  · obtain ⟨mk, hdec, -⟩ := decode_of_opcode_formatBit hop
    simp only [hdec, formatBit_eq_command_iff, exists_and_left, exists_eq', and_true,
      reserved_of_opcode_formatBit hop, not_not]
  · obtain ⟨mk, hdec, -⟩ := decode_of_opcode_formatB hop
    simp only [hdec, formatB_eq_command_iff, exists_and_left, exists_eq', and_true,
      reserved_of_opcode_formatB hop, not_not]
  · simp only [decode_of_opcode_wreg hop, formatRB_eq_command_iff, exists_and_left, exists_eq', and_true,
      reserved_of_opcode_wreg hop, not_not]
  · simp only [decode_of_opcode_rreg hop, formatR_eq_command_iff, exists_and_left, exists_eq', and_true,
      reserved_of_opcode_rreg hop, not_not]

end Reserved

/-! ## The rows of the opcode map (R74) -/

section Rows

open Machine

variable {w : CommandWord} {i j : Instr}

/-- The mask of an opcode's row: the bits its format fixes (R72, R74). -/
def maskOfOpcode (o : BitVec 4) : CommandWord :=
  if o ∈ [0x4#4, 0x7#4, 0xC#4, 0xE#4, 0xF#4] then 0xFFFF
  else if o ∈ [0x1#4, 0x2#4, 0x3#4, 0x9#4] then 0xFEFF
  else if o ∈ [0x5#4, 0x6#4, 0x8#4, 0xD#4] then 0xFF00
  else if o = 0xA then 0xF000
  else 0xF0FF

theorem rowMask_eq (i : Instr) : i.rowMask = maskOfOpcode (opField i.rowMatch) := by
  cases i <;> simp only [Instr.rowMask, Instr.rowMatch] <;> decide

theorem rowMatch_eq (i : Instr) : i.rowMatch = packWord (opField i.rowMatch) 0 0 := by
  cases i <;> simp only [Instr.rowMatch] <;> decide

theorem opField_rowMatch_ne_zero (i : Instr) : opField i.rowMatch ≠ 0 := by
  cases i <;> simp only [Instr.rowMatch] <;> decide

theorem opField_maskOfOpcode : ∀ o, opField (maskOfOpcode o) = BitVec.allOnes 4 := by decide

/-- A word matches a row when it has the row's opcode, and no bit of the other fields under the mask of that opcode. -/
theorem matches_row_iff (w : CommandWord) (i : Instr) :
    w &&& i.rowMask = i.rowMatch ↔
      opField w = opField i.rowMatch ∧ auxField w &&& auxField (maskOfOpcode (opField w)) = 0 ∧
        dataField w &&& dataField (maskOfOpcode (opField w)) = 0 := by
  rw [rowMask_eq, rowMatch_eq, opField_packWord, eq_packWord_iff, opField_and, auxField_and, dataField_and,
    opField_maskOfOpcode, BitVec.and_allOnes]
  refine and_congr_right fun hop => ?_
  rw [hop]

/-- No word matches two rows: they have different opcodes. -/
theorem rowMatch_eq_of_matches (hi : w &&& i.rowMask = i.rowMatch) (hj : w &&& j.rowMask = j.rowMatch) :
    i.rowMatch = j.rowMatch := by
  obtain ⟨hopi, -⟩ := (matches_row_iff w i).mp hi
  obtain ⟨hopj, -⟩ := (matches_row_iff w j).mp hj
  rw [rowMatch_eq i, rowMatch_eq j, ← hopi, hopj]

/-- The word of every command matches the command's row. -/
theorem encode_matches_row (i : Instr) : encode i &&& i.rowMask = i.rowMatch := by
  cases i with
  | lrel l => exact Laws.TableRow.lrel l
  | ldrv l => exact Laws.TableRow.ldrv l
  | lrd l => exact Laws.TableRow.lrd l
  | init => exact Laws.TableRow.init
  | start d => exact Laws.TableRow.start d
  | rstart d => exact Laws.TableRow.rstart d
  | stop => exact Laws.TableRow.stop
  | wrb d => exact Laws.TableRow.wrb d
  | rdb last => exact Laws.TableRow.rdb last
  | wreg r d => exact Laws.TableRow.wreg r d
  | rreg r => exact Laws.TableRow.rreg r
  | config => exact Laws.TableRow.config
  | wgpio d => exact Laws.TableRow.wgpio d
  | rgpio => exact Laws.TableRow.rgpio
  | tick => exact Laws.TableRow.tick

/-- What the mask of an opcode's row says of `aux`: the bits the format fixes (R72, R74). -/
theorem auxField_of_masked : ∀ o a : BitVec 4, a &&& auxField (maskOfOpcode o) = 0 →
    (o ∈ [0x1#4, 0x2#4, 0x3#4, 0x9#4] → a.extractLsb' 1 3 = 0) ∧
      (o ∈ [0x4#4, 0x7#4, 0xC#4, 0xE#4, 0xF#4] → a = 0) ∧ (o ∈ [0x5#4, 0x6#4, 0x8#4, 0xD#4] → a = 0) := by
  decide

/-- The rows without a byte operand fix all of `data` (R72, R74). -/
theorem dataField_maskOfOpcode : ∀ o : BitVec 4,
    o ∈ [0x1#4, 0x2#4, 0x3#4, 0x9#4] ∨ o ∈ [0x4#4, 0x7#4, 0xC#4, 0xE#4, 0xF#4] ∨ o = 0xB →
      dataField (maskOfOpcode o) = BitVec.allOnes 8 := by
  decide

/-- A word that matches a row has the fixed bits of its opcode's format at zero. -/
theorem not_reservedByFormat_of_matches (h : w &&& i.rowMask = i.rowMatch) : ¬ reservedByFormat w := by
  obtain ⟨hop, haux, hdata⟩ := (matches_row_iff w i).mp h
  obtain ⟨hauxBit, hauxNone, hauxByte⟩ := auxField_of_masked _ _ haux
  have hdataFixed := dataField_maskOfOpcode (opField w)
  rintro (hzero | ⟨hbit, hset⟩ | ⟨hnone, hset⟩ | ⟨hbyte, hset⟩ | ⟨hreg, hset⟩)
  · exact opField_rowMatch_ne_zero i (hop ▸ hzero)
  · rw [hdataFixed (.inl hbit), BitVec.and_allOnes] at hdata
    exact hset.elim (absurd (hauxBit hbit)) (absurd hdata)
  · rw [hdataFixed (.inr (.inl hnone)), BitVec.and_allOnes] at hdata
    exact hset ((extractLsb'_low_eq_zero_iff w).mpr ⟨hauxNone hnone, hdata⟩)
  · exact hset (hauxByte hbyte)
  · rw [hdataFixed (.inr (.inr hreg)), BitVec.and_allOnes] at hdata
    exact hset hdata

/-- A word decodes to a command of the row it matches, unless R80 reserves its register operand. -/
theorem decode_row_iff (w : CommandWord) (j : Instr) :
    (∃ i, decode w = .command i ∧ i.rowMatch = j.rowMatch) ↔
      w &&& j.rowMask = j.rowMatch ∧ ¬ reservedOperand w := by
  constructor
  · rintro ⟨i, hdec, hrow⟩
    obtain ⟨rfl, -⟩ := encode_of_decode hdec
    have hfree := (exists_decode_command_iff (encode i)).mp ⟨i, hdec⟩
    have hmask : j.rowMask = i.rowMask := by rw [rowMask_eq, rowMask_eq, hrow]
    exact ⟨by rw [hmask, ← hrow, encode_matches_row], fun h => hfree (.inr h)⟩
  · rintro ⟨hmatch, hoperand⟩
    have hfree : ¬ (reservedByFormat w ∨ reservedOperand w) :=
      not_or.mpr ⟨not_reservedByFormat_of_matches hmatch, hoperand⟩
    obtain ⟨i, hdec⟩ := (exists_decode_command_iff w).mpr hfree
    obtain ⟨rfl, -⟩ := encode_of_decode hdec
    exact ⟨i, hdec, rowMatch_eq_of_matches (encode_matches_row i) hmatch⟩

end Rows

end Sys2Proof

namespace Sys2Proof.Machine

open Sys2Proof

/-! ## Command words handed to the block (R70, R79) -/

/-- An accepted record with a reserved word pending first is refused, naming the word (R79). -/
theorem step_of_reserved {s : State} {w : CommandWord} {rest : List CommandWord} {why : Reserved}
    (hr : s.recordRefusal = none) (hp : s.pending = w :: rest) (hd : decode w = .reserved why) :
    step s = .refused (.reservedWord w) := by
  simp only [step, hr, hp, hd]

/-- A refusal in the first step is the answer of the whole run. -/
theorem run_succ_of_step_refused {s : State} {why : Refusal} (h : step s = .refused why) (n : Nat) :
    Host.Core.run Sys2Proof.core (n + 1) s = .refused why := by
  have hcore : Sys2Proof.core.step s = .refused why := h
  simp only [Host.Core.run, hcore]

/-- A handed word stands at the head of the pending words (R70). -/
theorem State.withFetchWord_toNat (s : State) (w : CommandWord) :
    s.withFetchWord 16 w.toNat = { s with pending := w :: s.pending } := by
  have hw : BitVec.ofNat 16 (w.toNat % 2 ^ 16) = w := by
    rw [Nat.mod_eq_of_lt w.isLt, BitVec.ofNat_toNat, BitVec.setWidth_eq]
  rw [State.withFetchWord, hw]

/-! ## The register operands of WREG and RREG (R53, R80) -/

section Operands

variable {r : RegIndex} {s : State}

theorem wregRefusal_of_not_register (c : Config) (h : 0x0A < r.toNat) :
    wregRefusal c r = some (.noSuchRegister r) :=
  if_pos (by rwa [← Bool.not_eq_true, isRegister_iff, not_le])

theorem rregRefusal_of_not_register (h : 0x0A < r.toNat) : rregRefusal r = some (.noSuchRegister r) :=
  if_pos (by rwa [← Bool.not_eq_true, isRegister_iff, not_le])

theorem wregRefusal_of_bypass (c : Config) (hr : r.toNat ≤ 0x0A)
    (h : isWritable r = false ∨ r.setWidth 8 = c.regs.gpio ∨ r.setWidth 8 = c.regs.olat) :
    wregRefusal c r = some (.shadowBypass r) := by
  rw [wregRefusal, if_neg (by simp [isRegister_iff, hr])]
  exact if_pos h

theorem wregRefusal_of_writable (c : Config) (hr : r.toNat ≤ 0x08) (hgpio : r.setWidth 8 ≠ c.regs.gpio)
    (holat : r.setWidth 8 ≠ c.regs.olat) : wregRefusal c r = none := by
  rw [wregRefusal, if_neg (by simp [isRegister_iff]; omega)]
  refine if_neg (not_or.mpr ⟨?_, not_or.mpr ⟨hgpio, holat⟩⟩)
  simp [isWritable_iff, hr]

theorem rregRefusal_of_register (hr : r.toNat ≤ 0x0A) : rregRefusal r = none :=
  if_neg (by simp [isRegister_iff, hr])

theorem execWreg_of_refusal {why : Refusal} (d : Byte) (h : wregRefusal s.cfg r = some why) :
    exec (.wreg r d) s = .refused why := by
  simp only [exec, execWreg, h]

theorem execRreg_of_refusal {why : Refusal} (h : rregRefusal r = some why) : exec (.rreg r) s = .refused why := by
  simp only [exec, execRreg, h]

/-- WREG of an admitted index is the write transaction (R131). -/
theorem execWreg_of_writable (d : Byte) (hr : r.toNat ≤ 0x08) (hgpio : r.setWidth 8 ≠ s.cfg.regs.gpio)
    (holat : r.setWidth 8 ≠ s.cfg.regs.olat) :
    exec (.wreg r d) s =
      .next ((s.onBus fun b => (b.writeTransaction s.cfg (r.setWidth 8) d).2).finish
        (s.bus.writeTransaction s.cfg (r.setWidth 8) d).1) := by
  simp only [exec, execWreg, wregRefusal_of_writable s.cfg hr hgpio holat, indexByte]

/-- RREG of a register is the read transaction (R133). -/
theorem execRreg_of_register (hr : r.toNat ≤ 0x0A) :
    exec (.rreg r) s =
      .next ((s.onBus fun _ => (s.bus.readTransaction s.cfg (r.setWidth 8)).2.2).finishData
        (s.bus.readTransaction s.cfg (r.setWidth 8)).1 (s.bus.readTransaction s.cfg (r.setWidth 8)).2.1) := by
  simp only [exec, execRreg, rregRefusal_of_register hr, indexByte]

end Operands

/-! ## The nine pulses of a byte frame (R83) -/

section Pulses

variable (sda x last : Bool) (l : List Bool) (v : Byte) (rest : List Event)

/-- Before SDA is next released, each written bit is SDA at one rise of SCL. -/
theorem levelsAtClockRise_bitEvents :
    levelsAtClockRise sda (l.flatMap bitEvents ++ .rel .sda :: rest) = l ++ levelsAtClockRise true rest := by
  induction l generalizing sda with
  | nil => rfl
  | cons y l ih => cases y <;> simp [bitEvents, setEvent, levelsAtClockRise, ih]

/-- While bits are read SDA stays as it was. -/
theorem levelsAtClockRise_sampleEvents :
    levelsAtClockRise sda (l.flatMap sampleEvents ++ rest) =
      List.replicate l.length sda ++ levelsAtClockRise sda rest := by
  induction l with
  | nil => rfl
  | cons y l ih => simp [sampleEvents, levelsAtClockRise, ih, List.replicate_succ]

theorem withoutWaits_append (x y : List Event) : withoutWaits (x ++ y) = withoutWaits x ++ withoutWaits y :=
  List.filter_append ..

theorem withoutWaits_flatMap (f : Bool → List Event) : withoutWaits (l.flatMap f) = l.flatMap (withoutWaits ∘ f) :=
  List.filter_flatMap ..

theorem withoutWaits_bitEvents :
    withoutWaits (bitEvents x) = [setEvent .sda x, .rel .scl, .low .scl] := by
  cases x <;> rfl

theorem withoutWaits_sampleEvents : withoutWaits (sampleEvents x) = [.rel .scl, .rd .sda x, .low .scl] := rfl

/-- A line event each bit of a frame has once stands in it once for every bit. -/
theorem count_flatMap_of_once {ev : Event} {f : Bool → List Event} (h : ∀ y, (f y).count ev = 1) :
    (l.flatMap f).count ev = l.length := by
  induction l with
  | nil => rfl
  | cons y l ih => rw [List.flatMap_cons, List.count_append, h, ih, List.length_cons, Nat.add_comm]

theorem length_msbFirst : (msbFirst v).length = 8 := rfl

theorem msbFirst_byteOfLevels_eight : ∀ x7 x6 x5 x4 x3 x2 x1 x0 : Bool,
    msbFirst (byteOfLevels [x7, x6, x5, x4, x3, x2, x1, x0]) = [x7, x6, x5, x4, x3, x2, x1, x0] := by decide

/-- Eight levels are the bits of the byte they assemble to. -/
theorem msbFirst_byteOfLevels (h : l.length = 8) : msbFirst (byteOfLevels l) = l := by
  match l, h with
  | [x7, x6, x5, x4, x3, x2, x1, x0], _ => exact msbFirst_byteOfLevels_eight ..

/-- SDA carries the bits of a written byte at the first eight rises and is released at the ninth. -/
theorem levelsAtClockRise_byteEvents : levelsAtClockRise sda (byteEvents v x) = msbFirst v ++ [true] :=
  levelsAtClockRise_bitEvents sda (msbFirst v) _

theorem withoutWaits_byteEvents :
    withoutWaits (byteEvents v x) =
      (msbFirst v).flatMap (fun y => [setEvent .sda y, .rel .scl, .low .scl]) ++
        [Event.rel .sda, .rel .scl, .rd .sda x, .low .scl] := by
  rw [byteEvents, withoutWaits_append, withoutWaits_flatMap]
  simp only [Function.comp_def, withoutWaits_bitEvents]
  rfl

/-- SDA is released at the first eight rises of a read byte, and at the ninth is the block's acknowledge. -/
theorem levelsAtClockRise_readEvents :
    levelsAtClockRise sda (readEvents l last) = List.replicate l.length true ++ [last] := by
  rw [readEvents, List.append_assoc]
  simp only [List.cons_append, List.nil_append, levelsAtClockRise, levelsAtClockRise_sampleEvents]
  cases last <;> rfl

theorem withoutWaits_readEvents :
    withoutWaits (readEvents l last) =
      [Event.rel .sda] ++ l.flatMap (fun y => [Event.rel .scl, .rd .sda y, .low .scl]) ++
        [setEvent .sda last, .rel .scl, .low .scl] := by
  rw [readEvents, withoutWaits_append, withoutWaits_append, withoutWaits_flatMap]
  simp only [Function.comp_def, withoutWaits_sampleEvents]
  cases last <;> rfl

/-- A written byte has nine rises of SCL and nine falls. -/
theorem count_scl_byteEvents :
    (byteEvents v x).count (.rel .scl) = 9 ∧ (byteEvents v x).count (.low .scl) = 9 := by
  have hrel (y : Bool) : (bitEvents y).count (.rel .scl) = 1 := by cases y <;> rfl
  have hlow (y : Bool) : (bitEvents y).count (.low .scl) = 1 := by cases y <;> rfl
  rw [byteEvents, List.count_append, List.count_append, count_flatMap_of_once _ hrel, count_flatMap_of_once _ hlow]
  exact ⟨rfl, rfl⟩

/-- So has a read one. -/
theorem count_scl_readEvents (h : l.length = 8) :
    (readEvents l last).count (.rel .scl) = 9 ∧ (readEvents l last).count (.low .scl) = 9 := by
  have hrel (y : Bool) : (sampleEvents y).count (.rel .scl) = 1 := rfl
  have hlow (y : Bool) : (sampleEvents y).count (.low .scl) = 1 := rfl
  rw [readEvents, List.count_append, List.count_append, List.count_append, List.count_append,
    count_flatMap_of_once _ hrel, count_flatMap_of_once _ hlow, h]
  cases last <;> exact ⟨rfl, rfl⟩

/-- Whatever takes the level out of each sample of SDA and skips the other events takes the levels out of a read
byte. -/
theorem filterMap_readEvents {f : Event → Option Bool} (hrd : ∀ y, f (.rd .sda y) = some y)
    (hrel : ∀ k, f (.rel k) = none) (hlow : ∀ k, f (.low k) = none) (hwait : ∀ d, f (.wait d) = none) :
    (readEvents l last).filterMap f = l := by
  have hsamples : (l.flatMap sampleEvents).filterMap f = l := by
    induction l with
    | nil => rfl
    | cons y l ih => simp [sampleEvents, hrd, hrel, hlow, hwait, ih]
  cases last <;> simp [readEvents, setEvent, hsamples, hrel, hlow, hwait]

end Pulses

/-! ## The frames a receiver sees of a transaction (R82 to R84) -/

section Frames

/-- A receiver between two bytes, or after a start condition: SCL low, no pulse and no byte in progress. -/
def Receiver.between (sda : Bool) (seen : List WireSymbol) : Receiver :=
  { scl := false, sda := sda, pulse := none, levels := [], symbols := seen }

/-- A stretch of trace that takes a receiver from between two bytes to between two bytes and shows it these symbols. -/
def Shows (evs : List Event) (syms : List WireSymbol) : Prop :=
  ∀ sda seen, ∃ sda', evs.foldl Receiver.see (.between sda seen) = .between sda' (seen ++ syms)

theorem shows_nil : Shows [] [] := fun sda seen => ⟨sda, by rw [List.append_nil]; rfl⟩

theorem Shows.append {x y : List Event} {xs ys : List WireSymbol} (hx : Shows x xs) (hy : Shows y ys) :
    Shows (x ++ y) (xs ++ ys) := by
  intro sda seen
  obtain ⟨sda1, h1⟩ := hx sda seen
  obtain ⟨sda2, h2⟩ := hy sda1 (seen ++ xs)
  exact ⟨sda2, by rw [List.foldl_append, h1, h2, List.append_assoc]⟩

/-- A stretch that is there only under a condition shows its symbols only under it. -/
theorem Shows.ite {x : List Event} {xs : List WireSymbol} (hx : Shows x xs) (p : Prop) [Decidable p] :
    Shows (if p then x else []) (if p then xs else []) := by
  split
  · exact hx
  · exact shows_nil

theorem shows_byteEvents (v : Byte) (level : Bool) : Shows (byteEvents v level) [.byte v level] :=
  fun _ _ => ⟨true, Receiver.see_byte _ v level rfl rfl rfl⟩

theorem shows_restartEvents : Shows restartEvents [.start] :=
  fun _ _ => ⟨false, Receiver.see_restart _ rfl rfl rfl⟩

theorem shows_readEvents {levels : List Bool} (h : levels.length = 8) :
    Shows (readEvents levels true) [.byte (byteOfLevels levels) true] :=
  fun _ _ => ⟨true, Receiver.see_read _ levels h rfl rfl rfl⟩

/-- A run of byte frames shows the bytes with their acknowledge levels. -/
theorem shows_flatMap_byteEvents (l : List (Byte × Bool)) :
    Shows (l.flatMap fun p => byteEvents p.1 p.2) (l.map fun p => .byte p.1 p.2) := by
  induction l with
  | nil => exact shows_nil
  | cons p l ih => exact (shows_byteEvents p.1 p.2).append ih

/-- From an idle bus a start condition, such a stretch and a stop condition show the symbols between `S` and `P`. -/
theorem Shows.wireSymbols {mid : List Event} {syms : List WireSymbol} (h : Shows mid syms) :
    wireSymbols (startEvents ++ mid ++ stopEvents) = [WireSymbol.start] ++ syms ++ [WireSymbol.stop] := by
  obtain ⟨sda, hmid⟩ := h false [.start]
  have hstart : startEvents.foldl Receiver.see Receiver.idle = .between false [.start] :=
    Receiver.see_start Receiver.idle rfl rfl
  rw [Machine.wireSymbols, List.foldl_append, List.foldl_append, hstart, hmid, Receiver.see_stop _ rfl rfl rfl]
  rfl

/-- A register read appends its frame whether it fails or not. -/
theorem Bus.readTransaction_trace (c : Config) (r : Byte) (b : Bus) :
    (b.readTransaction c r).2.2.trace = b.trace ++ readFrame c r b.env := by
  rw [Bus.readTransaction_spec]
  split <;> rfl

/-- A register write cut after `n` phases is `S ADDR_W A r A v A P` cut there (R84, R132). -/
theorem wireSymbols_writeFrame (c : Config) (r v : Byte) (n : Nat) (x y z : Bool) :
    wireSymbols (writeFrame c r v n [x, y, z]) =
      [WireSymbol.start] ++ [WireSymbol.byte c.addrW x, .byte r y, .byte v z].take n ++ [WireSymbol.stop] := by
  rw [writeFrame, (shows_flatMap_byteEvents _).wireSymbols, List.map_take]
  rfl

/-- A register read cut after `n` phases is `S ADDR_W A r A Sr ADDR_R A` cut there, its data byte if that is reached,
and `P` (R84, R133). -/
theorem wireSymbols_readHeadFrame (c : Config) (r : Byte) (n : Nat) (x y z reached : Bool) {levels : List Bool}
    (h : levels.length = 8) :
    wireSymbols (readHeadFrame c r n [x, y, z] ++ (if reached then readEvents levels true else []) ++ stopEvents) =
      [WireSymbol.start] ++ [WireSymbol.byte c.addrW x, .byte r y].take n ++
        (if n = 3 then [WireSymbol.start, .byte c.addrR z] else []) ++
        (if reached then [WireSymbol.byte (byteOfLevels levels) true] else []) ++ [WireSymbol.stop] := by
  have hhead := shows_flatMap_byteEvents (([c.addrW, r].zip [x, y, z]).take n)
  have haddr : Shows (restartEvents ++ byteEvents c.addrR z) [.start, .byte c.addrR z] :=
    shows_restartEvents.append (shows_byteEvents c.addrR z)
  have hall := ((hhead.append (haddr.ite (n = 3))).append ((shows_readEvents h).ite (reached = true))).wireSymbols
  rw [List.map_take] at hall
  simpa [readHeadFrame] using hall

end Frames

end Sys2Proof.Machine

namespace Sys2Proof.Encoding

open Sys2Proof Sys2Proof.Machine

/-- Settles O1, by the formats of the command's word. -/
theorem decodeOfEncodeIsTheCommand : Obligations.DecodeOfEncodeIsTheCommand := fun _ => decode_encode

/-- Settles O2, by the formats of the word's opcode. -/
theorem encodeOfDecodeIsTheWord : Obligations.EncodeOfDecodeIsTheWord := fun _ _ => encode_of_decode

/-- Settles O3: a word's opcode names its row, and the row's mask the bits its format fixes. -/
theorem wordSelectsTheRowItMatches : Obligations.WordSelectsTheRowItMatches :=
  fun w j => ⟨decode_row_iff w j, fun _ => rowMatch_eq_of_matches⟩

/-- Settles O4: a word is reserved exactly when it carries no command. -/
theorem reservedWordsAreTheListedOnes : Obligations.ReservedWordsAreTheListedOnes := fun w => by
  rw [Decoded.exists_reserved_iff, exists_decode_command_iff, not_not]

/-- Settles O5: a listed word decodes to Reserved, so the first step refuses it. -/
theorem reservedWordIsRefusedForTheRun : Obligations.ReservedWordIsRefusedForTheRun := by
  intro s w rest hr hp hlisted n
  obtain ⟨why, hd⟩ := (reservedWordsAreTheListedOnes w).mpr hlisted
  exact run_succ_of_step_refused (step_of_reserved hr hp hd) n

/-- Settles O6: six words of the table are words of commands, and two have a reserved register operand. -/
theorem specWordsDecode : Obligations.SpecWordsDecode :=
  ⟨decode_encode (i := .lrel .sda) rfl, decode_encode (i := .start 0x40) rfl, decode_encode (i := .rdb true) rfl,
    decode_encode (i := .wreg 0x5 0x48) rfl, decode_encode (i := .rreg 0x9) rfl, decode_encode (i := .tick) rfl,
    by decide, by decide⟩

/-- Settles O8: the handed word stands first, and taking it off again leaves the state as it was. -/
theorem handedWordRunsNext : Obligations.HandedWordRunsNext := by
  intro s i hr hwf
  rw [State.withFetchWord_toNat]
  exact step_of_pending (s := { s with pending := encode i :: s.pending }) hr rfl (decode_encode hwf)

/-- Settles O29, by the register operands each of the two commands refuses. -/
theorem reservedRegistersAreRefused : Obligations.ReservedRegistersAreRefused := by
  intro r d s
  refine ⟨fun h => ⟨?_, ?_⟩, fun h => ?_, fun hr h => ?_⟩
  · exact execWreg_of_refusal d (wregRefusal_of_not_register _ h)
  · exact execRreg_of_refusal (rregRefusal_of_not_register h)
  · refine execWreg_of_refusal d (wregRefusal_of_bypass _ ?_ (.inl ?_)) <;> obtain rfl | rfl := h <;> decide
  · exact execWreg_of_refusal d (wregRefusal_of_bypass _ hr (.inr h))

/-- Settles O25: WRB appends a byte frame and RDB a read frame, whose pulses are theirs. -/
theorem byteFrameIsNinePulsesMsbFirst : Obligations.ByteFrameIsNinePulsesMsbFirst := by
  intro v last s
  constructor
  · obtain ⟨hrel, hlow⟩ := count_scl_byteEvents s.bus.env.drawLine.1 v
    refine ⟨_, byteEvents v s.bus.env.drawLine.1, rfl, ?_, levelsAtClockRise_byteEvents .., hrel, hlow,
      withoutWaits_byteEvents ..⟩
    rw [State.finish_bus, State.onBus_bus, Bus.writeByte_spec]
  · have hlen : (s.bus.env.takeLines 8).1.length = 8 := Env.takeLines_length 8 _
    obtain ⟨hrel, hlow⟩ := count_scl_readEvents last _ hlen
    have hdata : msbFirst (s.bus.readByte last).1 = (s.bus.env.takeLines 8).1 := by
      rw [Bus.readByte_spec, msbFirst_byteOfLevels _ hlen]
    refine ⟨_, readEvents (s.bus.env.takeLines 8).1 last, rfl, ?_, ?_, hrel, hlow, ?_, ?_⟩
    · rw [State.finishData_bus, State.onBus_bus, Bus.readByte_spec]
    · rw [levelsAtClockRise_readEvents, hlen]
    · rw [State.finishData_rData, hdata]
      exact filterMap_readEvents _ _ (fun _ => rfl) (fun _ => rfl) (fun _ => rfl) (fun _ => rfl)
    · rw [State.finishData_rData, hdata]
      exact withoutWaits_readEvents ..

/-- Settles O34, by what a receiver sees of a register write and of a register read. -/
theorem transactionFramesOnTheWire : Obligations.TransactionFramesOnTheWire := by
  intro s _
  refine ⟨fun r d hr hgpio holat => ?_, fun r hr => ⟨?_, fun v rest => ?_⟩⟩
  · refine ⟨_, _, execWreg_of_writable d hr hgpio holat, ?_, wireSymbols_writeFrame ..⟩
    rw [State.finish_bus, State.onBus_bus, Bus.writeTransaction_spec]
    rfl
  · refine ⟨_, readFrame s.cfg (r.setWidth 8) s.bus.env, execRreg_of_register hr, ?_, ?_⟩
    · rw [State.finishData_bus, State.onBus_bus, Bus.readTransaction_trace]
    · exact wireSymbols_readHeadFrame (h := Env.takeLines_length 8 _) ..
  · have hread := Bus.readTransaction_acked s.cfg (r.setWidth 8) v (s.scripted (ackedRead v ++ rest)).bus rest rfl
    refine ⟨_, ackedReadFrame s.cfg (r.setWidth 8) v, execRreg_of_register hr, ?_, ?_, ?_⟩
    · rw [State.finishData_bus, State.onBus_bus]
      exact congrArg (fun t => t.2.2.trace) hread
    · rw [State.finishData_rData]
      exact congrArg (fun t => t.2.1) hread
    · have hframe := wireSymbols_readHeadFrame s.cfg (r.setWidth 8) 3 false false false true (length_msbFirst v)
      rw [byteOfLevels_msbFirst] at hframe
      exact hframe

end Sys2Proof.Encoding

/-! # Bus Line Control (40_line_control.md): one command on one line of the bus -/

namespace Sys2Proof.Machine

open Sys2Proof

section LineControl

variable (l : Line) (b : Bus) (s : State)

/-- A release is the line's drive bit cleared and one `REL` (R90). -/
theorem Bus.release_spec :
    b.release l = { b.setDrv l false with trace := b.trace ++ [.rel l] } := by
  rw [Bus.release, Bus.emit, Bus.setDrv_trace]

/-- A drive-low is the line's drive bit set and one `LOW` (R91). -/
theorem Bus.driveLow_spec :
    b.driveLow l = { b.setDrv l true with trace := b.trace ++ [.low l] } := by
  rw [Bus.driveLow, Bus.emit, Bus.setDrv_trace]

/-- LREL is one release, and it succeeds (R90). -/
theorem exec_lrel : exec (.lrel l) s = .next { s with
    bus := { s.bus.setDrv l false with trace := s.bus.trace ++ [.rel l] }, rOk := true } := by
  simp only [exec, execLrel, State.onBus, State.finish, Bus.release_spec]

/-- LDRV is one drive-low, and it succeeds (R91). -/
theorem exec_ldrv : exec (.ldrv l) s = .next { s with
    bus := { s.bus.setDrv l true with trace := s.bus.trace ++ [.low l] }, rOk := true } := by
  simp only [exec, execLdrv, State.onBus, State.finish, Bus.driveLow_spec]

variable {l s}

/-- LRD returns the level its one read of the line finds, and leaves the bus of that read (R92). -/
theorem exec_lrd_of_read {level : Bool} {after : Bus} (h : s.bus.read l = (level, after)) :
    exec (.lrd l) s = .next { s with bus := after, rData := byteOfLevel level, rOk := true } := by
  simp only [exec, execLrd, State.onBus, State.finishData, h]

end LineControl

end Sys2Proof.Machine

namespace Sys2Proof.LineControl

open Sys2Proof.Machine

/-- Settles O15: the release of each of the two lines. -/
theorem lrelReleasesItsLine : Obligations.LrelReleasesItsLine :=
  fun s => ⟨exec_lrel .scl s, exec_lrel .sda s⟩

/-- Settles O16: the drive-low of each of the two lines. -/
theorem ldrvDrivesItsLineLow : Obligations.LdrvDrivesItsLineLow :=
  fun s => ⟨exec_ldrv .scl s, exec_ldrv .sda s⟩

/-- Settles O17, by what a read finds on a driven and on a released line. -/
theorem lrdReadsItsLine : Obligations.LrdReadsItsLine := by
  intro l s
  constructor
  · intro hdriven
    exact exec_lrd_of_read (Bus.read_driven l s.bus hdriven)
  · intro hreleased
    exact exec_lrd_of_read (Bus.read_released l s.bus hreleased)

end Sys2Proof.LineControl

/-! # The Protocol Engine (41_protocol_engine.md): the whole next state of each command, the counts of the byte frames,
and the wait after every transition -/

namespace Sys2Proof.Machine

open Sys2Proof

/-! ## The commands on the bus: the result and the bus of the one operation each command is -/

section Commands

variable {d : Byte} {last ok : Bool} {v : Byte} {after : Bus} {s : State}

/-- INIT advances the phase from `BOOT_INIT` only (R101). -/
theorem Phase.afterInit_eq (p : Phase) : p.afterInit = if p = .bootInit then .bootConfig else p := by
  cases p <;> rfl

theorem exec_init_of_checkIdle (h : s.bus.checkIdle = (ok, after)) :
    exec .init s = .next { s with
      bus := after, rOk := ok, rBusfault := !ok,
      phase := if s.phase = .bootInit then .bootConfig else s.phase } := by
  simp only [exec, execInit, State.finish, h, Phase.afterInit_eq]

theorem exec_start_of_start (h : s.bus.start d = (ok, after)) :
    exec (.start d) s = .next { s with bus := after, rOk := ok } := by
  simp only [exec, execStart, State.onBus, State.finish, h]

theorem exec_rstart_of_rstart (h : s.bus.rstart d = (ok, after)) :
    exec (.rstart d) s = .next { s with bus := after, rOk := ok } := by
  simp only [exec, execRstart, State.onBus, State.finish, h]

theorem exec_stop_of_stop (h : s.bus.stop = after) :
    exec .stop s = .next { s with bus := after, rOk := true } := by
  simp only [exec, execStop, State.onBus, State.finish, h]

theorem exec_wrb_of_writeByte (h : s.bus.writeByte d = (ok, after)) :
    exec (.wrb d) s = .next { s with bus := after, rOk := ok } := by
  simp only [exec, execWrb, State.onBus, State.finish, h]

theorem exec_rdb_of_readByte (h : s.bus.readByte last = (v, after)) :
    exec (.rdb last) s = .next { s with bus := after, rData := v, rOk := true } := by
  simp only [exec, execRdb, State.onBus, State.finishData, h]

/-- A WREG that is not refused leaves the bus of its write transaction (R131). -/
theorem execWreg_bus {r : RegIndex} {t : State} (h : execWreg r d s = .next t) :
    t.bus = (s.bus.writeTransaction s.cfg (indexByte r) d).2 := by
  unfold execWreg at h
  split at h <;> cases h
  rfl

/-- An RREG that is not refused leaves the bus of its read transaction (R133). -/
theorem execRreg_bus {r : RegIndex} {t : State} (h : execRreg r s = .next t) :
    t.bus = (s.bus.readTransaction s.cfg (indexByte r)).2.2 := by
  unfold execRreg at h
  split at h <;> cases h
  rfl

end Commands

/-! ## The events of the byte frames, counted (R111, R115) -/

section Counts

variable (l : List Bool) (v : Byte) (x last : Bool)

/-- An event each bit of a frame has `k` times stands in it `k` times for every bit. -/
theorem count_flatMap_of_const {ev : Event} {f : Bool → List Event} {k : Nat} (h : ∀ y, (f y).count ev = k) :
    (l.flatMap f).count ev = l.length * k := by
  simp [List.count_flatMap, Function.comp_def, h]

/-- A frame whose bits have `k` events each has `k` events for every bit. -/
theorem length_flatMap_of_const {f : Bool → List Event} {k : Nat} (h : ∀ y, (f y).length = k) :
    (l.flatMap f).length = l.length * k := by
  simp [List.length_flatMap, h]

/-- A written byte has 55 events (R111). -/
theorem length_byteEvents : (byteEvents v x).length = 55 := by
  have hbit (y : Bool) : (bitEvents y).length = 6 := rfl
  rw [byteEvents, List.length_append, length_flatMap_of_const _ hbit]
  rfl

/-- Of them 24 are `WAIT(T_Q)`, three for each bit, and 3 `WAIT(T_ACK)`, all in the acknowledge slot (R111). -/
theorem count_wait_byteEvents :
    (byteEvents v x).count (.wait .tQ) = 24 ∧ (byteEvents v x).count (.wait .tAck) = 3 := by
  have hq (y : Bool) : (bitEvents y).count (.wait .tQ) = 3 := by cases y <;> rfl
  have hack (y : Bool) : (bitEvents y).count (.wait .tAck) = 0 := by cases y <;> rfl
  rw [byteEvents, List.count_append, List.count_append, count_flatMap_of_const _ hq, count_flatMap_of_const _ hack]
  exact ⟨rfl, rfl⟩

variable {l}

/-- A read byte has 48 events (R115). -/
theorem length_readEvents (h : l.length = 8) : (readEvents l last).length = 48 := by
  have hbit (y : Bool) : (sampleEvents y).length = 5 := rfl
  rw [readEvents, List.length_append, List.length_append, length_flatMap_of_const _ hbit, h]
  rfl

/-- Of them 17 are `WAIT(T_Q)`, one before the bits and two for each, and 3 `WAIT(T_ACK)` (R115). -/
theorem count_wait_readEvents (h : l.length = 8) :
    (readEvents l last).count (.wait .tQ) = 17 ∧ (readEvents l last).count (.wait .tAck) = 3 := by
  have hq (y : Bool) : (sampleEvents y).count (.wait .tQ) = 2 := rfl
  have hack (y : Bool) : (sampleEvents y).count (.wait .tAck) = 0 := rfl
  rw [readEvents, List.count_append, List.count_append, List.count_append, List.count_append,
    count_flatMap_of_const _ hq, count_flatMap_of_const _ hack, h]
  cases last <;> exact ⟨rfl, rfl⟩

end Counts

/-! ## What an operation appends to the trace (R94, R100) -/

/-- From `b` to `b'` the trace grew by a stretch that meets `P`. -/
def Bus.Appends (P : List Event → Prop) (b b' : Bus) : Prop := ∃ evs, b'.trace = b.trace ++ evs ∧ P evs

/-- Every transition appended has its one wait of the engine (R100). -/
abbrev Bus.Settles : Bus → Bus → Prop := Bus.Appends fun evs => settled evs = true

/-- Whole transactions and waits of the sequencer were appended. -/
abbrev Bus.Paced : Bus → Bus → Prop := Bus.Appends PacedBySequencer

/-- What two operations in a row append is what each appends, joined. -/
theorem Bus.Appends.trans {P : List Event → Prop} (hP : ∀ x y, P x → P y → P (x ++ y)) {b b' b'' : Bus}
    (h : Bus.Appends P b b') (h' : Bus.Appends P b' b'') : Bus.Appends P b b'' := by
  obtain ⟨x, hx, px⟩ := h
  obtain ⟨y, hy, py⟩ := h'
  exact ⟨x ++ y, by rw [hy, hx, List.append_assoc], hP x y px py⟩

theorem Bus.Settles.trans {b b' b'' : Bus} (h : b.Settles b') (h' : b'.Settles b'') : b.Settles b'' :=
  Bus.Appends.trans (fun x y hx hy => (settled_append x y hx).trans hy) h h'

theorem Bus.Paced.refl (b : Bus) : b.Paced b := ⟨[], (List.append_nil _).symm, pacedBySequencer_nil⟩

theorem Bus.Paced.trans {b b' b'' : Bus} (h : b.Paced b') (h' : b'.Paced b'') : b.Paced b'' :=
  Bus.Appends.trans (fun _ _ => PacedBySequencer.append) h h'

section Settles

variable (b : Bus) (s : State)

theorem Bus.read_settles (l : Line) : b.Settles (b.read l).2 := ⟨[.rd l (b.level l).1], rfl, rfl⟩

theorem Bus.checkIdle_settles : b.Settles b.checkIdle.2 := by
  rw [Bus.checkIdle_spec]
  exact ⟨_, rfl, rfl⟩

theorem Bus.writeByte_settles (v : Byte) : b.Settles (b.writeByte v).2 := by
  rw [Bus.writeByte_spec]
  exact ⟨_, rfl, settled_byteEvents ..⟩

theorem Bus.readByte_settles (last : Bool) : b.Settles (b.readByte last).2 := by
  rw [Bus.readByte_spec]
  exact ⟨_, rfl, settled_readEvents ..⟩

theorem Bus.start_settles (a : Byte) : b.Settles (b.start a).2 := by
  rw [Bus.start_spec]
  exact ⟨_, List.append_assoc .., (settled_append startEvents _ rfl).trans (settled_byteEvents ..)⟩

theorem Bus.rstart_settles (a : Byte) : b.Settles (b.rstart a).2 := by
  rw [Bus.rstart_spec]
  exact ⟨_, List.append_assoc .., (settled_append restartEvents _ rfl).trans (settled_byteEvents ..)⟩

theorem Bus.stop_settles : b.Settles b.stop := by
  rw [Bus.stop_spec]
  exact ⟨_, rfl, rfl⟩

theorem Bus.writeTransaction_settles (c : Config) (r v : Byte) : b.Settles (b.writeTransaction c r v).2 := by
  rw [Bus.writeTransaction_spec]
  exact ⟨_, rfl, (isTransaction_writeFrame ..).1⟩

theorem Bus.readTransaction_settles (c : Config) (r : Byte) : b.Settles (b.readTransaction c r).2.2 :=
  ⟨_, b.readTransaction_trace c r, (isTransaction_readFrame ..).1⟩

theorem State.configWrite_settles (r : Reg) (v : Byte) : s.bus.Settles (s.configWrite r v).bus :=
  Bus.writeTransaction_settles ..

theorem State.wgpio_settles (v : Byte) : s.bus.Settles (s.wgpio v).2.bus :=
  Bus.writeTransaction_settles ..

/-- CONFIG is six register writes in a row (R135). -/
theorem State.configWrites_settles : s.bus.Settles s.configWrites.bus :=
  (s.configWrite_settles ..).trans <| (State.configWrite_settles ..).trans <| (State.configWrite_settles ..).trans <|
    (State.configWrite_settles ..).trans <| (State.wgpio_settles ..).trans (State.configWrite_settles ..)

/-- The commands INIT to RGPIO and the reads: each is one operation on the bus, or CONFIG's six writes. -/
theorem exec_settles {i : Instr} {t : State} (hline : ∀ l, i ≠ .lrel l ∧ i ≠ .ldrv l) (htick : i ≠ .tick)
    (h : exec i s = .next t) : s.bus.Settles t.bus := by
  cases i with
  | lrel l => exact absurd rfl (hline l).1
  | ldrv l => exact absurd rfl (hline l).2
  | tick => exact absurd rfl htick
  | lrd l => cases h; exact s.bus.read_settles l
  | init => cases h; exact s.bus.checkIdle_settles
  | start d => cases h; exact s.bus.start_settles d
  | rstart d => cases h; exact s.bus.rstart_settles d
  | stop => cases h; exact s.bus.stop_settles
  | wrb d => cases h; exact s.bus.writeByte_settles d
  | rdb last => cases h; exact s.bus.readByte_settles last
  | wreg r d => rw [execWreg_bus h]; exact s.bus.writeTransaction_settles ..
  | rreg r => rw [execRreg_bus h]; exact s.bus.readTransaction_settles ..
  | config => cases h; exact s.configWrites_settles
  | wgpio d => cases h; exact s.wgpio_settles d
  | rgpio => cases h; exact s.bus.readTransaction_settles ..

end Settles

/-! ## A TICK is paced by the sequencer (R57, R150) -/

section Paced

variable (s : State)

theorem State.wait_tTick_paced : s.bus.Paced (s.wait .tTick).bus := s.wait_paced _ (.inl rfl)

theorem State.wait_tDebounce_paced : s.bus.Paced (s.wait .tDebounce).bus := s.wait_paced _ (.inr (.inl rfl))

theorem State.wait_tFanSettle_paced : s.bus.Paced (s.wait .tFanSettle).bus := s.wait_paced _ (.inr (.inr rfl))

/-- A sample, the debounce wait and a second sample: what a confirmation that goes on appends (R157). -/
theorem State.sample_twice_paced : s.bus.Paced (s.sample.2.wait .tDebounce).sample.2.bus :=
  Bus.Paced.trans s.sample_paced <| (State.wait_tDebounce_paced _).trans (State.sample_paced _)

theorem State.confirm_paced (P : Byte → Bool) : s.bus.Paced (s.confirm P).2.bus := by
  simp only [State.confirm]
  split
  · exact s.sample_twice_paced
  · exact s.sample_paced

theorem State.render_paced : s.bus.Paced s.blinkAdvance.render.bus := s.blinkAdvance.writePins_paced _

theorem State.enterPowerDownWait_paced : s.bus.Paced s.enterPowerDownWait.bus := s.writePins_paced _

theorem State.cutPower_paced : s.bus.Paced s.cutPower.bus :=
  Bus.Paced.trans (s.writePins_paced _) (State.writePins_paced ..)

theorem State.evalOff_paced : s.bus.Paced s.evalOff.bus := by
  have hconfirm := s.confirm_paced (pressed s.cfg)
  simp only [State.evalOff]
  split
  · exact hconfirm.trans <| Bus.Paced.trans (State.writePins_paced ..) <|
      (State.wait_tFanSettle_paced _).trans (State.writePins_paced ..)
  · exact hconfirm

theorem State.evalPoweringUp_paced : s.bus.Paced s.evalPoweringUp.bus := by
  have hconfirm := s.confirm_paced (up s.cfg)
  simp only [State.evalPoweringUp]
  split <;> exact hconfirm

theorem State.evalOn_paced : s.bus.Paced s.evalOn.bus := by
  have htwice := s.sample_twice_paced
  simp only [State.evalOn]
  split
  · split
    · exact htwice.trans (State.enterPowerDownWait_paced _)
    · exact htwice
  · split
    · split
      · exact htwice.trans (State.writePins_paced ..)
      · exact htwice
    · exact s.sample_paced

theorem State.evalPowerDownRequested_paced : s.bus.Paced s.evalPowerDownRequested.bus := by
  have hconfirm := s.confirm_paced (down s.cfg)
  simp only [State.evalPowerDownRequested]
  split
  · exact hconfirm.trans (State.enterPowerDownWait_paced _)
  · exact hconfirm

theorem State.guardPass_paced : s.bus.Paced s.guardPass.bus :=
  Bus.Paced.trans s.sample_paced (State.wait_tTick_paced _)

variable {s} {t : State}

/-- A guard loop that ends is a run of its passes (R172). -/
theorem guardLoop_paced {fuel : Nat} (h : guardLoop fuel s = some t) : s.bus.Paced t.bus := by
  induction fuel generalizing s with
  | zero =>
    by_cases h0 : s.guardCnt = 0
    · rw [guardLoop_of_timer_zero _ h0] at h
      cases h
      exact Bus.Paced.refl _
    · rw [guardLoop_zero_of_timer_ne_zero h0] at h
      cases h
  | succ n ih =>
    by_cases h0 : s.guardCnt = 0
    · rw [guardLoop_of_timer_zero _ h0] at h
      cases h
      exact Bus.Paced.refl _
    · rw [guardLoop_succ_of_timer_ne_zero n h0] at h
      exact s.guardPass_paced.trans (ih h)

theorem State.guard_paced (h : s.guard = some t) : s.bus.Paced t.bus :=
  guardLoop_paced (s := { s with guardCnt := s.cfg.nGuard }) h

theorem State.evalPowerDownWait_paced (h : s.evalPowerDownWait = some t) : s.bus.Paced t.bus := by
  by_cases h0 : s.countdown - 1 = 0
  · rw [State.evalPowerDownWait_of_last h0, Option.map_eq_some_iff] at h
    obtain ⟨u, hguard, rfl⟩ := h
    have hcut := State.cutPower_paced { s with countdown := s.countdown - 1 }
    have hloop := State.guard_paced hguard
    exact hcut.trans hloop
  · rw [State.evalPowerDownWait_of_not_last h0] at h
    cases h
    exact Bus.Paced.refl _

/-- A TICK that completes is its render, the evaluation of its state and the tick wait (R150). -/
theorem execTick_paced (h : execTick s = .next t) : s.bus.Paced t.bus := by
  obtain ⟨u, rfl, heval⟩ := execTick_cases h
  have hu : s.blinkAdvance.render.bus.Paced u.bus := by
    obtain ⟨-, rfl⟩ | ⟨-, rfl⟩ | ⟨-, rfl⟩ | ⟨-, rfl⟩ | ⟨-, hwait⟩ := heval
    · exact State.evalOff_paced _
    · exact State.evalPoweringUp_paced _
    · exact State.evalOn_paced _
    · exact State.evalPowerDownRequested_paced _
    · exact State.evalPowerDownWait_paced hwait
  exact s.render_paced.trans (hu.trans u.wait_tTick_paced)

end Paced

end Sys2Proof.Machine

namespace Sys2Proof.ProtocolEngine

open Sys2Proof.Machine

/-- Settles O18, by INIT's line events and the phase after it. -/
theorem initChecksTheIdleBus : Obligations.InitChecksTheIdleBus :=
  fun s => exec_init_of_checkIdle s.bus.checkIdle_spec

/-- Settles O19: START is `start` on the bus, whatever its lines were. -/
theorem startSendsTheAddress : Obligations.StartSendsTheAddress :=
  fun d s => exec_start_of_start (s.bus.start_spec d)

/-- Settles O20: RSTART is `rstart` on the bus. -/
theorem rstartReturnsToIdleThenStarts : Obligations.RstartReturnsToIdleThenStarts :=
  fun d s => exec_rstart_of_rstart (s.bus.rstart_spec d)

/-- Settles O21: STOP is `stop` on the bus, whatever its lines were. -/
theorem stopAlwaysSucceeds : Obligations.StopAlwaysSucceeds :=
  fun s => exec_stop_of_stop s.bus.stop_spec

/-- Settles O22: the events of WRB are those of a byte frame, counted bit by bit and in the acknowledge slot. -/
theorem wrbWritesAByte : Obligations.WrbWritesAByte := by
  intro d s
  have hexec := exec_wrb_of_writeByte (s.bus.writeByte_spec d)
  exact ⟨hexec, length_byteEvents .., count_wait_byteEvents ..⟩

/-- Settles O23: it is the half of O25 that speaks of the written byte. -/
theorem wrbClocksItsBitsMsbFirst : Obligations.WrbClocksItsBitsMsbFirst := by
  intro d s
  obtain ⟨hwritten, -⟩ := Encoding.byteFrameIsNinePulsesMsbFirst d true s
  exact hwritten

/-- Settles O24: the events of RDB are those of a read byte of the eight levels it draws. -/
theorem rdbReadsAByte : Obligations.RdbReadsAByte := by
  intro last s
  have hlen : (s.bus.env.takeLines 8).1.length = 8 := Env.takeLines_length 8 _
  have hexec := exec_rdb_of_readByte (s.bus.readByte_spec last)
  exact ⟨hexec, length_readEvents last hlen, count_wait_readEvents last hlen⟩

/-- Settles O26: what each command but TICK appends is settled, and what TICK appends is paced by the sequencer. -/
theorem everyTransitionSettles : Obligations.EveryTransitionSettles :=
  ⟨fun _ s _ hline htick h => exec_settles s hline htick h, fun _ _ h => execTick_paced h⟩

end Sys2Proof.ProtocolEngine

/-! # The Device Register Driver (42_register_driver.md): the whole next state of each command, the run of CONFIG's
writes, and the registers of a device that takes its writes from the wire -/

namespace Sys2Proof.Machine

open Sys2Proof

/-! ## The commands of one transaction: its result and its bus -/

section Transactions

variable {r : RegIndex} {d v : Byte} {ok : Bool} {after : Bus} {s : State}

/-- WREG of an admitted index returns the result of its write transaction (R131). -/
theorem exec_wreg_of_writeTransaction (hr : r.toNat ≤ 0x08) (hgpio : r.setWidth 8 ≠ s.cfg.regs.gpio)
    (holat : r.setWidth 8 ≠ s.cfg.regs.olat) (h : s.bus.writeTransaction s.cfg (r.setWidth 8) d = (ok, after)) :
    exec (.wreg r d) s = .next { s with bus := after, rOk := ok } := by
  rw [execWreg_of_writable d hr hgpio holat, h, State.onBus, h, State.finish]

/-- RREG of a register returns the result and the byte of its read transaction (R133). -/
theorem exec_rreg_of_readTransaction (hr : r.toNat ≤ 0x0A)
    (h : s.bus.readTransaction s.cfg (r.setWidth 8) = (ok, v, after)) :
    exec (.rreg r) s = .next { s with bus := after, rData := v, rOk := ok } := by
  rw [execRreg_of_register hr, h, State.onBus, State.finishData]

/-- WGPIO is a write transaction to the GPIO register, and sets the shadow whatever its result (R139, R140). -/
theorem exec_wgpio_of_writeTransaction (h : s.bus.writeTransaction s.cfg s.cfg.regs.gpio d = (ok, after)) :
    exec (.wgpio d) s = .next { s with bus := after, shadow := d, rOk := ok } := by
  simp only [exec, execWgpio, State.wgpio, State.finish, Config.reg, RegTable.index, h]

/-- RGPIO is a read transaction on the GPIO register (R141). -/
theorem exec_rgpio_of_readTransaction (h : s.bus.readTransaction s.cfg s.cfg.regs.gpio = (ok, v, after)) :
    exec .rgpio s = .next { s with bus := after, rData := v, rOk := ok } := by
  simp only [exec, execRgpio, Bus.rgpio, State.onBus, State.finishData, Config.reg, RegTable.index, h]

end Transactions

/-! ## A read that succeeds and a read that fails (R133, R134) -/

section Reads

variable {b : Bus} (c : Config) (r : Byte)

/-- All acked, a read returns the byte of its data levels. -/
theorem Bus.readTransaction_of_allAcked (h : allAcked (b.env.takeLines 3).1 = true) :
    b.readTransaction c r = (true, byteOfLevels b.env.dataLevels,
      { sclDrv := false, sdaDrv := false, env := b.env.afterRead c.nackPolicy,
        trace := b.trace ++ readFrame c r b.env }) := by
  rw [Bus.readTransaction_spec, if_pos h]

/-- After a nack a read returns the draw `ANY_U8`. -/
theorem Bus.readTransaction_of_nack (h : allAcked (b.env.takeLines 3).1 = false) :
    b.readTransaction c r = (false, (b.env.afterRead c.nackPolicy).drawByte.1,
      { sclDrv := false, sdaDrv := false, env := (b.env.afterRead c.nackPolicy).drawByte.2,
        trace := b.trace ++ readFrame c r b.env }) := by
  rw [Bus.readTransaction_spec, if_neg (Bool.not_eq_true _ ▸ h)]

end Reads

/-! ## CONFIG, a run of register writes (R135, R136, R138) -/

section ConfigRun

variable (c : Config)

/-- A run of register writes, (index, value) pairs in order, each result discarded. -/
def Bus.writeRun : List (Byte × Byte) → Bus → Bus
  | [], b => b
  | w :: ws, b => Bus.writeRun ws (b.writeTransaction c w.1 w.2).2

/-- The six writes of CONFIG in the order of R135, as (index, value) pairs. -/
def configRun : List (Byte × Byte) :=
  [(c.regs.iocon, c.cfgIocon), (c.regs.ipol, 0x00), (c.regs.gpinten, 0x00), (c.regs.gppu, bit c.pins.switch),
    (c.regs.gpio, 0x00), (c.regs.iodir, bit c.pins.switch ||| bit c.pins.boardUp)]

/-- A run of at least one write appends its frames, whatever became of each, and leaves an idle bus. -/
theorem Bus.writeRun_cons (w : Byte × Byte) (ws : List (Byte × Byte)) (b : Bus) :
    Bus.writeRun c (w :: ws) b =
      { sclDrv := false, sdaDrv := false, env := (writeFrames c (w :: ws) b.env).2,
        trace := b.trace ++ (writeFrames c (w :: ws) b.env).1 } := by
  induction ws generalizing w b with
  | nil => simp [Bus.writeRun, Bus.writeTransaction_spec, writeFrames, Env.afterWrite]
  | cons w' ws ih =>
    rw [Bus.writeRun, ih, Bus.writeTransaction_spec, writeFrames, List.append_assoc]
    rfl

/-- The fifth of CONFIG's writes is WGPIO's, so the shadow ends at its operand (R135, R140). -/
theorem State.configWrites_spec (s : State) :
    s.configWrites = { s with bus := Bus.writeRun s.cfg (configRun s.cfg) s.bus, shadow := 0x00 } := rfl

/-- CONFIG advances the phase from `BOOT_CONFIG` only (R135). -/
theorem Phase.afterConfig_eq (p : Phase) : p.afterConfig = if p = .bootConfig then .run else p := by
  cases p <;> rfl

theorem exec_config_of_writeFrames {s : State} {evs : List Event} {e : Env}
    (h : writeFrames s.cfg (configRun s.cfg) s.bus.env = (evs, e)) :
    exec .config s = .next { s with
      bus := { sclDrv := false, sdaDrv := false, env := e, trace := s.bus.trace ++ evs }
      shadow := 0x00
      rOk := true
      phase := if s.phase = .bootConfig then .run else s.phase } := by
  rw [exec, execConfig, State.configWrites_spec, configRun, Bus.writeRun_cons, ← configRun, h, Phase.afterConfig_eq]
  rfl

end ConfigRun

/-! ## Acknowledged commands -/

section Acked

variable (c : Config) {r : RegIndex} {d v : Byte} {s : State} {rest : List Bool}

theorem exec_wreg_acked (hr : r.toNat ≤ 0x08) (hgpio : r.setWidth 8 ≠ s.cfg.regs.gpio)
    (holat : r.setWidth 8 ≠ s.cfg.regs.olat) (h : s.bus.env.lineDraws = ackedWrite ++ rest) :
    exec (.wreg r d) s = .next { s with
      bus := { sclDrv := false, sdaDrv := false, env := { s.bus.env with lineDraws := rest }
               trace := s.bus.trace ++ ackedWriteFrame s.cfg (r.setWidth 8) d }
      rOk := true } :=
  exec_wreg_of_writeTransaction hr hgpio holat (Bus.writeTransaction_acked _ _ _ _ _ h)

theorem exec_rreg_acked (hr : r.toNat ≤ 0x0A) (h : s.bus.env.lineDraws = ackedRead v ++ rest) :
    exec (.rreg r) s = .next { s with
      bus := { sclDrv := false, sdaDrv := false, env := { s.bus.env with lineDraws := rest }
               trace := s.bus.trace ++ ackedReadFrame s.cfg (r.setWidth 8) v }
      rData := v
      rOk := true } :=
  exec_rreg_of_readTransaction hr (Bus.readTransaction_acked _ _ _ _ _ h)

theorem exec_wgpio_acked (h : s.bus.env.lineDraws = ackedWrite ++ rest) :
    exec (.wgpio d) s = .next { s with
      bus := { sclDrv := false, sdaDrv := false, env := { s.bus.env with lineDraws := rest }
               trace := s.bus.trace ++ ackedWriteFrame s.cfg s.cfg.regs.gpio d }
      shadow := d
      rOk := true } :=
  exec_wgpio_of_writeTransaction (Bus.writeTransaction_acked _ _ _ _ _ h)

theorem exec_rgpio_acked (h : s.bus.env.lineDraws = ackedRead v ++ rest) :
    exec .rgpio s = .next { s with
      bus := { sclDrv := false, sdaDrv := false, env := { s.bus.env with lineDraws := rest }
               trace := s.bus.trace ++ ackedReadFrame s.cfg s.cfg.regs.gpio v }
      rData := v
      rOk := true } :=
  exec_rgpio_of_readTransaction (Bus.readTransaction_acked _ _ _ _ _ h)

/-- The trace of a run of register writes with every byte acknowledged. -/
def ackedRun (ws : List (Byte × Byte)) : List Event := ws.flatMap fun w => ackedWriteFrame c w.1 w.2

/-- A run of writes takes three acknowledges for each. -/
theorem writeFrames_acked (ws : List (Byte × Byte)) (e : Env)
    (h : e.lineDraws = List.replicate (3 * ws.length) false ++ rest) :
    writeFrames c ws e = (ackedRun c ws, { e with lineDraws := rest }) := by
  induction ws generalizing e with
  | nil => cases e; cases h; rfl
  | cons w ws ih =>
    have h3 := Env.takeLines_scripted e false false false (List.replicate (3 * ws.length) false ++ rest) h
    have hn : phasesSent c.nackPolicy [false, false, false] = 3 := by cases c.nackPolicy <;> rfl
    simp only [writeFrames, h3, hn, ih { e with lineDraws := List.replicate (3 * ws.length) false ++ rest } rfl]
    rfl

/-- CONFIG with its 18 bytes acknowledged. -/
theorem exec_config_acked (h : s.bus.env.lineDraws = List.replicate 18 false ++ rest) :
    exec .config s = .next { s with
      bus := { sclDrv := false, sdaDrv := false, env := { s.bus.env with lineDraws := rest }
               trace := s.bus.trace ++ ackedRun s.cfg (configRun s.cfg) }
      shadow := 0x00
      rOk := true
      phase := if s.phase = .bootConfig then .run else s.phase } :=
  exec_config_of_writeFrames (writeFrames_acked s.cfg (configRun s.cfg) s.bus.env h)

end Acked

/-! ## The writes a device takes from the wire (R84, R137, R143) -/

section Device

variable (c : Config) (ws : List (Byte × Byte))

/-- An acknowledged register write as a receiver sees it (R84). -/
def writeSymbols (w : Byte × Byte) : List WireSymbol :=
  [.start, .byte c.addrW false, .byte w.1 false, .byte w.2 false, .stop]

/-- A receiver on an idle bus, with what it has seen so far. -/
def Receiver.resting (seen : List WireSymbol) : Receiver := { Receiver.idle with symbols := seen }

/-- A stretch between a start and a stop condition takes a receiver from an idle bus back to one. -/
theorem Shows.see_transaction {mid : List Event} {syms : List WireSymbol} (h : Shows mid syms)
    (seen : List WireSymbol) :
    (startEvents ++ mid ++ stopEvents).foldl Receiver.see (.resting seen) =
      .resting (seen ++ ([WireSymbol.start] ++ syms ++ [WireSymbol.stop])) := by
  obtain ⟨sda, hmid⟩ := h false (seen ++ [WireSymbol.start])
  have hstart : startEvents.foldl Receiver.see (.resting seen) = .between false (seen ++ [WireSymbol.start]) :=
    Receiver.see_start (.resting seen) rfl rfl
  rw [List.foldl_append, List.foldl_append, hstart, hmid, Receiver.see_stop _ rfl rfl rfl]
  simp [Receiver.between, Receiver.resting, Receiver.idle]

/-- An acknowledged write frame takes a receiver from an idle bus back to one. -/
theorem see_ackedWriteFrame (w : Byte × Byte) (seen : List WireSymbol) :
    (ackedWriteFrame c w.1 w.2).foldl Receiver.see (.resting seen) = .resting (seen ++ writeSymbols c w) :=
  (shows_flatMap_byteEvents (([c.addrW, w.1, w.2].zip ackedWrite).take 3)).see_transaction seen

theorem see_ackedRun (seen : List WireSymbol) :
    (ackedRun c ws).foldl Receiver.see (.resting seen) = .resting (seen ++ ws.flatMap (writeSymbols c)) := by
  induction ws generalizing seen with
  | nil => rw [List.flatMap_nil, List.append_nil]; rfl
  | cons w ws ih =>
    rw [ackedRun, List.flatMap_cons, List.foldl_append, see_ackedWriteFrame, ← ackedRun, ih, List.flatMap_cons,
      List.append_assoc]

/-- On an idle bus a receiver sees the writes of an acknowledged run one after another. -/
theorem wireSymbols_ackedRun : wireSymbols (ackedRun c ws) = ws.flatMap (writeSymbols c) :=
  congrArg Receiver.symbols (see_ackedRun c ws [])

/-- A device takes from the wire exactly the writes of an acknowledged run. -/
theorem deviceWrites_ackedRun : deviceWrites c.addrW (wireSymbols (ackedRun c ws)) = ws := by
  rw [wireSymbols_ackedRun]
  induction ws with
  | nil => rfl
  | cons w ws ih => simp [writeSymbols, deviceWrites, ih]

/-- After one acknowledged write a device holds the value written. -/
theorem deviceAfter_ackedWriteFrame (r v : Byte) (regs : Byte → Byte) :
    deviceAfter (deviceWrites c.addrW (wireSymbols (ackedWriteFrame c r v))) regs r = v := by
  have hframe : ackedWriteFrame c r v = ackedRun c [(r, v)] := (List.append_nil _).symm
  rw [hframe, deviceWrites_ackedRun]
  exact if_pos rfl

variable {ws} {r : Byte}

theorem deviceAfter_of_not_written (h : r ∉ ws.map Prod.fst) (f : Byte → Byte) : deviceAfter ws f r = f r := by
  induction ws generalizing f with
  | nil => rfl
  | cons w ws ih =>
    obtain ⟨hw, hws⟩ := not_or.mp (List.mem_cons.not.mp h)
    exact (ih hws _).trans (if_neg hw)

/-- What a written register holds does not depend on what it held before. -/
theorem deviceAfter_of_written (h : r ∈ ws.map Prod.fst) (f g : Byte → Byte) :
    deviceAfter ws f r = deviceAfter ws g r := by
  induction ws generalizing f g with
  | nil => cases h
  | cons w ws ih =>
    by_cases hws : r ∈ ws.map Prod.fst
    · exact ih hws _ _
    · have hw : r = w.1 := (List.mem_cons.mp h).resolve_right hws
      have hlast (k : Byte → Byte) : deviceAfter (w :: ws) k r = w.2 :=
        (deviceAfter_of_not_written hws _).trans (if_pos hw)
      rw [hlast, hlast]

/-- A run of writes taken twice leaves what it leaves once. -/
theorem deviceAfter_append_self (regs : Byte → Byte) : deviceAfter (ws ++ ws) regs = deviceAfter ws regs := by
  funext r
  have htwice : deviceAfter (ws ++ ws) regs = deviceAfter ws (deviceAfter ws regs) := List.foldl_append
  rw [htwice]
  by_cases h : r ∈ ws.map Prod.fst
  · exact deviceAfter_of_written h _ _
  · exact deviceAfter_of_not_written h _

end Device

end Sys2Proof.Machine

namespace Sys2Proof.RegisterDriver

open Sys2Proof.Machine

/-- Settles O27, by the write transaction to the index. -/
theorem wregRunsTheWriteTransaction : Obligations.WregRunsTheWriteTransaction :=
  fun _ _ _ hr hgpio holat => exec_wreg_of_writeTransaction hr hgpio holat (Bus.writeTransaction_spec ..)

/-- Settles O28, by the read transaction on the index, acknowledged or not. -/
theorem rregRunsTheReadTransaction : Obligations.RregRunsTheReadTransaction :=
  fun _ _ hr =>
    ⟨fun hacked => exec_rreg_of_readTransaction hr (Bus.readTransaction_of_allAcked _ _ hacked),
      fun hnack => exec_rreg_of_readTransaction hr (Bus.readTransaction_of_nack _ _ hnack)⟩

/-- Settles O30, by the write transaction to the GPIO register. -/
theorem wgpioAlwaysUpdatesTheShadow : Obligations.WgpioAlwaysUpdatesTheShadow :=
  fun _ _ => exec_wgpio_of_writeTransaction (Bus.writeTransaction_spec ..)

/-- Settles O31, by the read transaction on the GPIO register, acknowledged or not. -/
theorem rgpioReadsTheGpioRegister : Obligations.RgpioReadsTheGpioRegister :=
  fun _ =>
    ⟨fun hacked => exec_rgpio_of_readTransaction (Bus.readTransaction_of_allAcked _ _ hacked),
      fun hnack => exec_rgpio_of_readTransaction (Bus.readTransaction_of_nack _ _ hnack)⟩

/-- Settles O32, by the frames of a run of writes. -/
theorem configSendsSixWritesDirectionLast : Obligations.ConfigSendsSixWritesDirectionLast :=
  fun _ => exec_config_of_writeFrames Prod.mk.eta.symm

/-- Settles O35: the device holds the value written, and the read returns what the device holds. -/
theorem echoingDeviceRoundTrip : Obligations.EchoingDeviceRoundTrip := by
  intro v s regs rest _ echo
  have echo_of {w rd : Instr} {r : Byte} {t u : State} (hwrite : exec w (s.scripted (ackedWrite ++ rest)) = .next t)
      (htrace : t.bus.trace = s.bus.trace ++ ackedWriteFrame s.cfg r v) (hok : t.rOk = true)
      (hread : exec rd (t.scripted (ackedRead v ++ rest)) = .next u) (hu : u.rOk = true ∧ u.rData = v) :
      echo w rd r := by
    refine ⟨t, ackedWriteFrame s.cfg r v, hwrite, htrace, hok, u, ?_, hu⟩
    rw [deviceAfter_ackedWriteFrame]
    exact hread
  constructor
  · intro r hr hgpio holat
    have hr' : r.toNat ≤ 0x0A := hr.trans (by decide)
    exact echo_of (exec_wreg_acked hr hgpio holat rfl) rfl rfl (exec_rreg_acked hr' rfl) ⟨rfl, rfl⟩
  · exact echo_of (exec_wgpio_acked rfl) rfl rfl (exec_rgpio_acked rfl) ⟨rfl, rfl⟩

/-- Settles O36: a device takes CONFIG's run once and twice, and a run taken twice leaves what it leaves once. -/
theorem configIsIdempotentOnTheDevice : Obligations.ConfigIsIdempotentOnTheDevice := by
  intro s rest regs _
  have htwice : ackedRun s.cfg (configRun s.cfg) ++ ackedRun s.cfg (configRun s.cfg) =
      ackedRun s.cfg (configRun s.cfg ++ configRun s.cfg) := List.flatMap_append.symm
  refine ⟨_, _, ackedRun s.cfg (configRun s.cfg), ackedRun s.cfg (configRun s.cfg ++ configRun s.cfg),
    exec_config_acked rfl, rfl, exec_config_acked rfl, ?_, ?_, ?_⟩
  · rw [← htwice]
    exact List.append_assoc ..
  · rw [deviceWrites_ackedRun]
    rfl
  · rw [deviceWrites_ackedRun, deviceWrites_ackedRun, deviceAfter_append_self]

end Sys2Proof.RegisterDriver

/-! # The Power Sequencer (43_power_sequencer.md): the rows of the transition table, the outputs of each sequencer
state, and the whole TICK on scripted samples -/

namespace Sys2Proof

/-! ## Pin masks (R10, R11) -/

section Pins

theorem getLsbD_bit : ∀ p q : PinPos, (bit p).getLsbD q.toNat = decide (p = q) := by decide

theorem bit_and_bit_of_ne : ∀ p q : PinPos, p ≠ q → bit p &&& bit q = 0 := by decide

variable (v : Byte) (p q : PinPos)

/-- Setting a pin's bit sets that bit and no other. -/
theorem getLsbD_or_bit : (v ||| bit p).getLsbD q.toNat = (v.getLsbD q.toNat || decide (p = q)) := by
  rw [BitVec.getLsbD_or, getLsbD_bit]

/-- Clearing a pin's bit clears that bit and no other. -/
theorem getLsbD_and_not_bit : (v &&& ~~~bit p).getLsbD q.toNat = (v.getLsbD q.toNat && !decide (p = q)) := by
  have hq : q.toNat < 8 := q.isLt
  rw [BitVec.getLsbD_and, BitVec.getLsbD_not, getLsbD_bit]
  simp [hq]

variable {v} {m n : Byte}

/-- Setting bits outside a mask changes nothing under the mask. -/
theorem or_and_of_disjoint (h : m &&& n = 0) : (v ||| m) &&& n = v &&& n := by
  rw [BitVec.and_comm, BitVec.and_or_distrib_left, BitVec.and_comm n m, h, BitVec.and_comm n v]
  exact BitVec.or_zero

/-- Clearing bits outside a mask changes nothing under the mask. -/
theorem and_not_and_of_disjoint (h : m &&& n = 0) : (v &&& ~~~m) &&& n = v &&& n := by
  ext i hi
  have hbit : (m &&& n)[i] = false := by simp [h]
  cases hn : n[i]
  · simp [hn]
  · have hm : m[i] = false := by simpa [hn] using hbit
    simp [hm]

/-- Under legal parameters a pin that is no LED has no bit in common with `LED_MASK`. -/
theorem bit_and_ledMask {c : Config} (hr : p ≠ c.pins.red) (hg : p ≠ c.pins.green) (hb : p ≠ c.pins.blue) :
    bit p &&& c.ledMask = 0 := by
  simp [Config.ledMask, BitVec.and_or_distrib_left, bit_and_bit_of_ne _ _ hr, bit_and_bit_of_ne _ _ hg,
    bit_and_bit_of_ne _ _ hb]

end Pins

end Sys2Proof

namespace Sys2Proof.Machine

open Sys2Proof

/-! ## The LED function and the render (R151, R153) -/

section Led

variable (c : Config) (s : State)

/-- Each LED's bit is in `LED_MASK`. -/
theorem ledBits_and_ledMask :
    bit c.pins.red &&& c.ledMask = bit c.pins.red ∧ bit c.pins.green &&& c.ledMask = bit c.pins.green ∧
      bit c.pins.blue &&& c.ledMask = bit c.pins.blue := by
  refine ⟨?_, ?_, ?_⟩ <;> ext i hi <;> simp [Config.ledMask] <;> grind

theorem led_and_ledMask (st : SeqState) (ph : Bool) : led c st ph &&& c.ledMask = led c st ph := by
  obtain ⟨hr, hg, hb⟩ := ledBits_and_ledMask c
  cases st with
  | off => exact hr
  | poweringUp => cases ph with
    | false => exact BitVec.zero_and
    | true => exact hg
  | on => exact hg
  | powerDownRequested => cases ph with
    | false => exact BitVec.zero_and
    | true => exact hr
  | powerDownWait =>
    rw [led, BitVec.and_comm, BitVec.and_or_distrib_left, BitVec.and_comm _ (bit c.pins.red), hr,
      BitVec.and_comm _ (bit c.pins.blue), hb]

/-- No LED value has a bit outside `LED_MASK`. -/
theorem led_and_not_ledMask (st : SeqState) (ph : Bool) : led c st ph &&& ~~~c.ledMask = 0 := by
  rw [← led_and_ledMask, BitVec.and_assoc, BitVec.and_not_self]
  exact BitVec.and_zero

/-- The LED bits of a render are the LED value. -/
theorem State.rendered_and_ledMask :
    s.rendered &&& s.cfg.ledMask = led s.cfg s.state s.blinkAdvance.blinkPhase := by
  have hclear : s.shadow &&& ~~~s.cfg.ledMask &&& s.cfg.ledMask = 0 := by
    rw [BitVec.and_assoc, BitVec.and_comm _ s.cfg.ledMask, BitVec.and_not_self]
    exact BitVec.and_zero
  rw [State.rendered, BitVec.or_comm, or_and_of_disjoint hclear, led_and_ledMask]

/-- The bit of a pin that is no LED is the shadow's. -/
theorem State.getLsbD_rendered {p : PinPos} (hr : s.cfg.pins.red ≠ p) (hg : s.cfg.pins.green ≠ p)
    (hb : s.cfg.pins.blue ≠ p) : s.rendered.getLsbD p.toNat = s.shadow.getLsbD p.toNat := by
  have hmask : s.cfg.ledMask.getLsbD p.toNat = false := by
    simp only [Config.ledMask, BitVec.getLsbD_or, getLsbD_bit, hr, hg, hb, decide_false, Bool.or_false]
  have hp : p.toNat < 8 := p.isLt
  rw [State.rendered, ← led_and_ledMask]
  simp only [BitVec.getLsbD_or, BitVec.getLsbD_and, BitVec.getLsbD_not, hmask, hp, decide_true, Bool.not_false,
    Bool.and_true, Bool.and_false, Bool.or_false]

end Led

/-! ## The rows of the transition table (R177) -/

/-- One row of R177's table, or staying: what a TICK from `s` may leave in the sequencer state, the shadow, the
countdown and the guard timer. -/
inductive State.TakesRow (s : State) : SeqState → Byte → Counter → Counter → Prop where
  | stay (h : s.state ≠ .powerDownWait) : s.TakesRow s.state s.rendered s.countdown s.guardCnt
  | powerUp (h : s.state = .off) :
    s.TakesRow .poweringUp (s.rendered ||| s.cfg.mFan ||| s.cfg.mDc) s.countdown s.guardCnt
  | boardUp (h : s.state = .poweringUp) : s.TakesRow .on s.rendered s.countdown s.guardCnt
  | boardDown (h : s.state = .on ∨ s.state = .powerDownRequested) :
    s.TakesRow .powerDownWait (s.rendered &&& ~~~s.cfg.mPdReq) s.cfg.nShutdown s.guardCnt
  | request (h : s.state = .on) :
    s.TakesRow .powerDownRequested (s.rendered ||| s.cfg.mPdReq) s.countdown s.guardCnt
  | countDown (h : s.state = .powerDownWait) (hc : s.countdown ≠ 1) :
    s.TakesRow .powerDownWait s.rendered (s.countdown - 1) s.guardCnt
  | cutPower (h : s.state = .powerDownWait) (hc : s.countdown = 1) :
    s.TakesRow .off (s.rendered &&& ~~~s.cfg.mDc &&& ~~~s.cfg.mFan) (s.countdown - 1) 0

/-- The evaluation of the sequencer state of the rendered state `r` answers `u` (R155). A guard loop that does not end
has no answer (R174). -/
inductive State.EvaluatesTo (r : State) : State → Prop where
  | off (h : r.state = .off) : r.EvaluatesTo r.evalOff
  | poweringUp (h : r.state = .poweringUp) : r.EvaluatesTo r.evalPoweringUp
  | on (h : r.state = .on) : r.EvaluatesTo r.evalOn
  | powerDownRequested (h : r.state = .powerDownRequested) : r.EvaluatesTo r.evalPowerDownRequested
  | powerDownWait {u : State} (h : r.state = .powerDownWait) (hu : r.evalPowerDownWait = some u) : r.EvaluatesTo u

section Rows

variable {s t u : State}

/-- A TICK completes with what the evaluation after its render answers, and the tick wait (R150). -/
theorem exec_tick_of_evaluatesTo (h : s.blinkAdvance.render.EvaluatesTo u) : exec .tick s = .next u.endTick := by
  cases h with
  | off hs | poweringUp hs | on hs | powerDownRequested hs => simp only [exec, execTick, hs]
  | powerDownWait hs hu => simp only [exec, execTick, hs, hu]

/-- A TICK completes in no other way. -/
theorem exec_tick_evaluatesTo (h : exec .tick s = .next t) :
    ∃ u, t = u.endTick ∧ s.blinkAdvance.render.EvaluatesTo u := by
  obtain ⟨u, rfl, ⟨hs, rfl⟩ | ⟨hs, rfl⟩ | ⟨hs, rfl⟩ | ⟨hs, rfl⟩ | ⟨hs, hu⟩⟩ := execTick_cases h
  · exact ⟨_, rfl, .off hs⟩
  · exact ⟨_, rfl, .poweringUp hs⟩
  · exact ⟨_, rfl, .on hs⟩
  · exact ⟨_, rfl, .powerDownRequested hs⟩
  · exact ⟨_, rfl, .powerDownWait hs hu⟩

theorem counter_sub_one_eq_zero_iff (x : Counter) : x - 1 = 0 ↔ x = 1 := by
  constructor <;> intro h <;> bv_omega

/-- What the evaluation of each sequencer state leaves after the render is a row of the table (R159 to R170). -/
theorem evaluation_takesRow (h : s.blinkAdvance.render.EvaluatesTo u) :
    ∃ (b : Bus) (st : SeqState) (sh : Byte) (cd g : Counter), b.idle ∧ s.TakesRow st sh cd g ∧
      u = { s.blinkAdvance with bus := b, state := st, shadow := sh, countdown := cd, guardCnt := g } := by
  obtain ⟨br, hbr, hr⟩ := s.render_spec
  rw [hr] at h
  have stays {st : SeqState} (hs : s.state = st) (hst : st ≠ .powerDownWait) : s.state ≠ .powerDownWait :=
    hs ▸ hst
  cases h with
  | off hs =>
    obtain ⟨b, hb, he | he⟩ := State.evalOff_cases { s.blinkAdvance with bus := br, shadow := s.rendered }
    · exact ⟨b, _, _, _, _, hb, .stay (stays hs nofun), he⟩
    · exact ⟨b, _, _, _, _, hb, .powerUp hs, he⟩
  | poweringUp hs =>
    obtain ⟨b, hb, he | he⟩ := State.evalPoweringUp_cases { s.blinkAdvance with bus := br, shadow := s.rendered }
    · exact ⟨b, _, _, _, _, hb, .stay (stays hs nofun), he⟩
    · exact ⟨b, _, _, _, _, hb, .boardUp hs, he⟩
  | on hs =>
    obtain ⟨b, hb, he | he | he⟩ := State.evalOn_cases { s.blinkAdvance with bus := br, shadow := s.rendered }
    · exact ⟨b, _, _, _, _, hb, .stay (stays hs nofun), he⟩
    · exact ⟨b, _, _, _, _, hb, .boardDown (.inl hs), he⟩
    · exact ⟨b, _, _, _, _, hb, .request hs, he⟩
  | powerDownRequested hs =>
    obtain ⟨b, hb, he | he⟩ :=
      State.evalPowerDownRequested_cases { s.blinkAdvance with bus := br, shadow := s.rendered }
    · exact ⟨b, _, _, _, _, hb, .stay (stays hs nofun), he⟩
    · exact ⟨b, _, _, _, _, hb, .boardDown (.inr hs), he⟩
  | powerDownWait hs hu =>
    obtain ⟨hc, rfl⟩ | ⟨hc, b, hb, rfl⟩ := State.evalPowerDownWait_cases hu
    · have hmore : s.countdown ≠ 1 := mt (counter_sub_one_eq_zero_iff _).mpr hc
      exact ⟨br, _, _, _, _, hbr, .countDown hs hmore, by rw [← hs]; rfl⟩
    · exact ⟨b, _, _, _, _, hb, .cutPower hs ((counter_sub_one_eq_zero_iff _).mp hc), rfl⟩

/-- A TICK that completes advances the blink timer, takes one row of the table and leaves an idle bus and `r_ok` true;
nothing else changes (R150, R155, R176). -/
theorem exec_tick_takesRow (h : exec .tick s = .next t) :
    ∃ (b : Bus) (st : SeqState) (sh : Byte) (cd g : Counter), b.idle ∧ s.TakesRow st sh cd g ∧
      t = { s.blinkAdvance with
        bus := b, state := st, shadow := sh, countdown := cd, guardCnt := g, rOk := true } := by
  obtain ⟨u, rfl, heval⟩ := exec_tick_evaluatesTo h
  obtain ⟨b, st, sh, cd, g, hb, hrow, rfl⟩ := evaluation_takesRow heval
  obtain ⟨b', hb', he⟩ := State.endTick_spec _
  exact ⟨b', st, sh, cd, g, hb' hb, hrow, he⟩

end Rows

/-! ## The outputs of each sequencer state (R178) -/

/-- The byte `v` holds fan and supply exactly if `power`, the request exactly if `request`, and no input bit. -/
def Drives (c : Config) (v : Byte) (power request : Prop) : Prop :=
  (v.getLsbD c.pins.fan.toNat = true ↔ power) ∧ (v.getLsbD c.pins.dc.toNat = true ↔ power) ∧
    (v.getLsbD c.pins.pdReq.toNat = true ↔ request) ∧ ¬ v.getLsbD c.pins.switch.toNat = true ∧
    ¬ v.getLsbD c.pins.boardUp.toNat = true

theorem State.outputsMatch_iff_drives (s : State) :
    s.OutputsMatch ↔ Drives s.cfg s.shadow (s.state ≠ .off) (s.state = .powerDownRequested) := Iff.rfl

section Outputs

variable {c : Config} {v : Byte} {power request : Prop}

/-- The pin roles that are no LED are distinct (R11). -/
theorem pins_ne_of_valid (h : c.valid = true) :
    (c.pins.switch ≠ c.pins.fan ∧ c.pins.switch ≠ c.pins.dc ∧ c.pins.switch ≠ c.pins.pdReq) ∧
      (c.pins.fan ≠ c.pins.dc ∧ c.pins.fan ≠ c.pins.boardUp ∧ c.pins.fan ≠ c.pins.pdReq) ∧
      (c.pins.dc ≠ c.pins.boardUp ∧ c.pins.dc ≠ c.pins.pdReq) ∧ c.pins.boardUp ≠ c.pins.pdReq := by
  obtain ⟨hpins, -⟩ := (config_valid_iff _).mp h
  simp only [List.nodup_cons, List.mem_cons, not_or] at hpins
  tauto

/-- The other roles are no LED. -/
theorem pins_ne_led_of_valid (h : c.valid = true) {p : PinPos}
    (hp : p ∈ [c.pins.switch, c.pins.fan, c.pins.dc, c.pins.boardUp, c.pins.pdReq]) :
    c.pins.red ≠ p ∧ c.pins.green ≠ p ∧ c.pins.blue ≠ p := by
  obtain ⟨hpins, -⟩ := (config_valid_iff _).mp h
  simp only [List.nodup_cons, List.mem_cons, not_or] at hpins hp
  grind

theorem Drives.congr {power' request' : Prop} (h : Drives c v power request) (hp : power ↔ power')
    (hr : request ↔ request') : Drives c v power' request' := by
  rwa [← propext hp, ← propext hr]

theorem Drives.rendered {s : State} (hc : s.cfg.valid = true) (h : Drives s.cfg s.shadow power request) :
    Drives s.cfg s.rendered power request := by
  have same : ∀ p ∈ [s.cfg.pins.switch, s.cfg.pins.fan, s.cfg.pins.dc, s.cfg.pins.boardUp, s.cfg.pins.pdReq],
      s.rendered.getLsbD p.toNat = s.shadow.getLsbD p.toNat := by
    intro p hp
    obtain ⟨hr, hg, hb⟩ := pins_ne_led_of_valid hc hp
    exact s.getLsbD_rendered hr hg hb
  simp only [List.forall_mem_cons] at same
  obtain ⟨hswitch, hfan, hdc, hboard, hreq, -⟩ := same
  unfold Drives
  rwa [hswitch, hfan, hdc, hboard, hreq]

/-- Fan and supply on (R159). -/
theorem Drives.powerOn (hc : c.valid = true) (h : Drives c v power request) :
    Drives c (v ||| c.mFan ||| c.mDc) True request := by
  obtain ⟨⟨hsf, hsd, -⟩, ⟨hfd, hfb, hfp⟩, ⟨hdb, hdp⟩, -⟩ := pins_ne_of_valid hc
  obtain ⟨-, -, hr, hs, hb⟩ := h
  simp only [Drives, Config.mFan, Config.mDc, getLsbD_or_bit]
  simp [hfd, hfp, hdp, hsf.symm, hsd.symm, hfb, hdb, hr, hs, hb]

/-- Supply and fan off (R170). -/
theorem Drives.powerOff (hc : c.valid = true) (h : Drives c v power request) :
    Drives c (v &&& ~~~c.mDc &&& ~~~c.mFan) False request := by
  obtain ⟨-, ⟨-, -, hfp⟩, ⟨-, hdp⟩, -⟩ := pins_ne_of_valid hc
  obtain ⟨-, -, hr, hs, hb⟩ := h
  simp only [Drives, Config.mFan, Config.mDc, getLsbD_and_not_bit]
  simp [hfp, hdp, hr, hs, hb]

/-- The request asserted (R164, R166). -/
theorem Drives.requestOn (hc : c.valid = true) (h : Drives c v power request) :
    Drives c (v ||| c.mPdReq) power True := by
  obtain ⟨⟨-, -, hsp⟩, ⟨-, -, hfp⟩, ⟨-, hdp⟩, hbp⟩ := pins_ne_of_valid hc
  obtain ⟨hf, hd, -, hs, hb⟩ := h
  simp only [Drives, Config.mPdReq, getLsbD_or_bit]
  simp [hfp.symm, hdp.symm, hsp.symm, hbp.symm, hf, hd, hs, hb]

/-- The request cleared (R164, R167). -/
theorem Drives.requestOff (hc : c.valid = true) (h : Drives c v power request) :
    Drives c (v &&& ~~~c.mPdReq) power False := by
  obtain ⟨-, ⟨-, -, hfp⟩, ⟨-, hdp⟩, -⟩ := pins_ne_of_valid hc
  obtain ⟨hf, hd, -, hs, hb⟩ := h
  simp only [Drives, Config.mPdReq, getLsbD_and_not_bit]
  simp [hfp.symm, hdp.symm, hf, hd, hs, hb]

variable {s : State} {st : SeqState} {sh : Byte} {cd g : Counter}

/-- Every row of the table leaves the outputs of the state it leads to. -/
theorem State.TakesRow.drives (hrow : s.TakesRow st sh cd g) (hc : s.cfg.valid = true) (hout : s.OutputsMatch) :
    Drives s.cfg sh (st ≠ .off) (st = .powerDownRequested) := by
  have h : Drives s.cfg s.rendered (s.state ≠ .off) (s.state = .powerDownRequested) :=
    (s.outputsMatch_iff_drives.mp hout).rendered hc
  cases hrow with
  | stay => exact h
  | powerUp hs => exact (h.powerOn hc).congr (by simp) (by simp [hs])
  | boardUp hs => exact h.congr (by simp [hs]) (by simp [hs])
  | boardDown hs => exact (h.requestOff hc).congr (by obtain hs | hs := hs <;> simp [hs]) (by simp)
  | request hs => exact (h.requestOn hc).congr (by simp [hs]) (by simp)
  | countDown hs => exact h.congr (by simp [hs]) (by simp [hs])
  | cutPower hs => exact (h.powerOff hc).congr (by simp) (by simp [hs])

/-- No row of the table has another LED bit than the render (R154). -/
theorem State.TakesRow.and_ledMask (hrow : s.TakesRow st sh cd g) (hc : s.cfg.valid = true) :
    sh &&& s.cfg.ledMask = s.rendered &&& s.cfg.ledMask := by
  have disjoint : ∀ p ∈ [s.cfg.pins.switch, s.cfg.pins.fan, s.cfg.pins.dc, s.cfg.pins.boardUp, s.cfg.pins.pdReq],
      bit p &&& s.cfg.ledMask = 0 := by
    intro p hp
    obtain ⟨hr, hg, hb⟩ := pins_ne_led_of_valid hc hp
    exact bit_and_ledMask p hr.symm hg.symm hb.symm
  simp only [List.forall_mem_cons] at disjoint
  obtain ⟨-, hfan, hdc, -, hreq, -⟩ := disjoint
  cases hrow with
  | stay | boardUp | countDown => rfl
  | powerUp => exact (or_and_of_disjoint hdc).trans (or_and_of_disjoint hfan)
  | request => exact or_and_of_disjoint hreq
  | boardDown => exact and_not_and_of_disjoint hreq
  | cutPower => exact (and_not_and_of_disjoint hfan).trans (and_not_and_of_disjoint hdc)

end Outputs

/-! ## The block on its own (R220) -/

section OnItsOwn

variable {s t : State}

/-- INIT leaves an idle bus, and the sequencer's fields and the shadow alone (R101). -/
theorem State.OnItsOwn.execInit (h : s.OnItsOwn) (hp : s.phase = .bootInit) (hx : exec .init s = .next t) :
    t.OnItsOwn := by
  obtain ⟨hkept, hpending, -, hoff, hout⟩ := h
  have hs : s.state = .off := hoff (by simp [hp])
  have hkept' : t.Kept := hkept.exec hx
  rw [exec_init_of_checkIdle s.bus.checkIdle_spec] at hx
  obtain rfl := Host.Outcome.next.inj hx
  exact ⟨hkept', hpending, ⟨rfl, rfl⟩, fun _ => hs, hout⟩

/-- CONFIG in Off leaves an idle bus and clears the shadow (R135). -/
theorem State.OnItsOwn.execConfig (h : s.OnItsOwn) (hp : s.phase = .bootConfig) (hx : exec .config s = .next t) :
    t.OnItsOwn := by
  obtain ⟨hkept, hpending, -, hoff, hout⟩ := h
  have hs : s.state = .off := hoff (by simp [hp])
  have hkept' : t.Kept := hkept.exec hx
  rw [exec_config_of_writeFrames Prod.mk.eta.symm] at hx
  obtain rfl := Host.Outcome.next.inj hx
  have hclear : Drives s.cfg 0x00 (s.state ≠ .off) (s.state = .powerDownRequested) := by
    simp [Drives, hs]
  exact ⟨hkept', hpending, ⟨rfl, rfl⟩, fun _ => hs, hclear⟩

/-- TICK leaves an idle bus and the outputs of the state its row leads to (R150, R178). -/
theorem State.OnItsOwn.execTick (h : s.OnItsOwn) (hp : s.phase = .run) (hx : exec .tick s = .next t) :
    t.OnItsOwn := by
  obtain ⟨hkept, hpending, -, -, hout⟩ := h
  obtain ⟨hvalid, -⟩ := id hkept
  have hkept' : t.Kept := hkept.exec hx
  obtain ⟨b, st, sh, cd, g, hb, hrow, rfl⟩ := exec_tick_takesRow hx
  exact ⟨hkept', hpending, hb, fun hne => absurd hp hne, hrow.drives hvalid hout⟩

/-- On its own the block runs the command of its phase, and each of the three keeps the invariant. -/
theorem State.OnItsOwn.step (h : s.OnItsOwn) (hx : step s = .next t) : t.OnItsOwn := by
  obtain ⟨-, hpending, -⟩ := id h
  obtain ⟨-, ⟨-, hown⟩ | ⟨w, rest, i, hword, -⟩⟩ := step_next s t hx
  · cases hp : s.phase with
    | bootInit => rw [hp] at hown; exact h.execInit hp hown
    | bootConfig => rw [hp] at hown; exact h.execConfig hp hown
    | run => rw [hp] at hown; exact h.execTick hp hown
  · rw [hpending] at hword
    cases hword

end OnItsOwn

/-! ## A TICK completes or hangs in the guard loop (R150, R174) -/

section Completes

variable {s u : State}

theorem exec_tick_of_guardLoopHang (h : s.state = .powerDownWait)
    (he : s.blinkAdvance.render.evalPowerDownWait = none) : exec .tick s = .fault .guardLoopHang := by
  have hr : s.blinkAdvance.render.state = .powerDownWait := h
  simp only [exec, execTick, hr, he]

/-- Before its end, the countdown goes on without a look at the environment (R169). -/
theorem State.evalPowerDownWait_render (h : s.countdown ≠ 1) :
    s.blinkAdvance.render.evalPowerDownWait = some { s.blinkAdvance.render with countdown := s.countdown - 1 } :=
  State.evalPowerDownWait_of_not_last (mt (counter_sub_one_eq_zero_iff _).mp h)

theorem exec_tick_next_or_guardLoopHang (s : State) : (∃ t, exec .tick s = .next t) ∨
    (exec .tick s = .fault .guardLoopHang ∧ s.state = .powerDownWait ∧ s.countdown = 1) := by
  have next {u : State} (h : s.blinkAdvance.render.EvaluatesTo u) : ∃ t, exec .tick s = .next t :=
    ⟨_, exec_tick_of_evaluatesTo h⟩
  cases hs : s.state with
  | off => exact .inl (next (.off hs))
  | poweringUp => exact .inl (next (.poweringUp hs))
  | on => exact .inl (next (.on hs))
  | powerDownRequested => exact .inl (next (.powerDownRequested hs))
  | powerDownWait =>
    by_cases hc : s.countdown = 1
    · cases he : s.blinkAdvance.render.evalPowerDownWait with
      | some u => exact .inl (next (.powerDownWait hs he))
      | none => exact .inr ⟨exec_tick_of_guardLoopHang hs he, rfl, hc⟩
    · exact .inl (next (.powerDownWait hs (State.evalPowerDownWait_render hc)))

end Completes

/-! ## What a TICK appends to the trace (R150) -/

section Trace

variable {s u : State}

/-- The bus after the render, whatever its acknowledges (R153). -/
theorem State.render_bus (s : State) : s.blinkAdvance.render.bus =
    { sclDrv := false, sdaDrv := false, env := s.bus.env.afterWrite s.cfg.nackPolicy
      trace := s.bus.trace ++ writeFrame s.cfg s.cfg.regs.gpio s.rendered
        (phasesSent s.cfg.nackPolicy (s.bus.env.takeLines 3).1) (s.bus.env.takeLines 3).1 } :=
  congrArg Prod.snd (Bus.writeTransaction_spec s.cfg s.cfg.regs.gpio s.rendered s.bus)

/-- The evaluation of each state appends to the trace and takes nothing from it. -/
theorem evaluation_paced (h : s.blinkAdvance.render.EvaluatesTo u) : s.blinkAdvance.render.bus.Paced u.bus := by
  cases h with
  | off => exact State.evalOff_paced _
  | poweringUp => exact State.evalPoweringUp_paced _
  | on => exact State.evalOn_paced _
  | powerDownRequested => exact State.evalPowerDownRequested_paced _
  | powerDownWait _ hu => exact State.evalPowerDownWait_paced hu

end Trace

/-! ## The predicates on a sample (R156) -/

section Predicates

variable (c : Config) (v : Byte)

theorem pressed_iff : pressed c v = true ↔ switchPressed c v := by
  simp [pressed, switchPressed]

theorem up_iff : up c v = true ↔ boardIsUp c v := Iff.rfl

theorem released_eq : released c v = !pressed c v := rfl

theorem down_eq : down c v = !up c v := rfl

end Predicates

/-! ## A TICK on acknowledged transactions -/

/-- A TICK from `s` under way on an idle bus: the blink timer advanced, the events `evs` appended, `levels` still to
be drawn, and the shadow, the sequencer state, the countdown and the guard timer as given. -/
def State.midTick (s : State) (evs : List Event) (levels : List Bool) (sh : Byte) (st : SeqState) (cd g : Counter) :
    State :=
  { s.blinkAdvance with
    bus := { sclDrv := false, sdaDrv := false, trace := s.bus.trace ++ evs,
             env := { s.bus.env with lineDraws := levels } }
    shadow := sh
    state := st
    countdown := cd
    guardCnt := g }

section Acked

variable {s : State} {v : Byte} {rest : List Bool}

theorem State.writePins_acked (h : s.bus.env.lineDraws = ackedWrite ++ rest) : s.writePins v = { s with
    bus := { sclDrv := false, sdaDrv := false, trace := s.bus.trace ++ gpioWriteFrame s.cfg v,
             env := { s.bus.env with lineDraws := rest } }
    shadow := v } := by
  rw [State.writePins, State.wgpio, Bus.writeTransaction_acked _ _ _ _ _ h]
  rfl

theorem State.sample_acked (h : s.bus.env.lineDraws = ackedRead v ++ rest) : s.sample = (v, { s with
    bus := { sclDrv := false, sdaDrv := false, trace := s.bus.trace ++ sampleFrame s.cfg v,
             env := { s.bus.env with lineDraws := rest } } }) := by
  rw [State.sample, Bus.rgpio, Bus.readTransaction_acked _ _ _ _ _ h]
  rfl

end Acked

section MidTick

variable (s : State) (evs : List Event) (levels rest : List Bool) (sh v v' : Byte) (st : SeqState) (cd g : Counter)

@[simp] theorem State.midTick_cfg : (s.midTick evs levels sh st cd g).cfg = s.cfg := rfl
@[simp] theorem State.midTick_shadow : (s.midTick evs levels sh st cd g).shadow = sh := rfl

/-- The render is the first write of a TICK (R150, R153). -/
theorem State.render_scripted : (s.scripted (ackedWrite ++ rest)).blinkAdvance.render =
    s.midTick (gpioWriteFrame s.cfg s.rendered) rest s.rendered s.state s.countdown s.guardCnt :=
  State.writePins_acked rfl

@[simp] theorem State.midTick_writePins : (s.midTick evs (ackedWrite ++ rest) sh st cd g).writePins v =
    s.midTick (evs ++ gpioWriteFrame s.cfg v) rest v st cd g :=
  (State.writePins_acked rfl).trans (by simp only [State.midTick, List.append_assoc]; rfl)

@[simp] theorem State.midTick_sample : (s.midTick evs (ackedRead v ++ rest) sh st cd g).sample =
    (v, s.midTick (evs ++ sampleFrame s.cfg v) rest sh st cd g) :=
  (State.sample_acked rfl).trans (by simp only [State.midTick, List.append_assoc]; rfl)

@[simp] theorem State.midTick_wait (d : Delay) : (s.midTick evs levels sh st cd g).wait d =
    s.midTick (evs ++ [.wait d]) levels sh st cd g := by
  simp only [State.wait, State.onBus, Bus.wait, Bus.emit, State.midTick, List.append_assoc]

@[simp] theorem State.midTick_enterPowerDownWait :
    (s.midTick evs (ackedWrite ++ rest) sh st cd g).enterPowerDownWait =
      s.midTick (evs ++ gpioWriteFrame s.cfg (sh &&& ~~~s.cfg.mPdReq)) rest (sh &&& ~~~s.cfg.mPdReq) .powerDownWait
        s.cfg.nShutdown g := by
  simp only [State.enterPowerDownWait, State.midTick_shadow, State.midTick_cfg, State.midTick_writePins]
  rfl

@[simp] theorem State.midTick_cutPower :
    (s.midTick evs (ackedWrite ++ (ackedWrite ++ rest)) sh st cd g).cutPower =
      s.midTick (evs ++ gpioWriteFrame s.cfg (sh &&& ~~~s.cfg.mDc) ++
        gpioWriteFrame s.cfg (sh &&& ~~~s.cfg.mDc &&& ~~~s.cfg.mFan)) rest
        (sh &&& ~~~s.cfg.mDc &&& ~~~s.cfg.mFan) st cd g := by
  simp only [State.cutPower, State.midTick_shadow, State.midTick_cfg, State.midTick_writePins]

/-- One pass of the guard loop: a sample, the timer re-armed or counted down, and the tick wait (R172). -/
@[simp] theorem State.midTick_guardPass : (s.midTick evs (ackedRead v ++ rest) sh st cd g).guardPass =
    s.midTick (evs ++ (sampleFrame s.cfg v ++ [.wait .tTick])) rest sh st cd
      (if pressed s.cfg v then s.cfg.nGuard else g - 1) := by
  rw [← List.append_assoc, ← State.midTick_wait, State.guardPass, State.midTick_sample]
  rfl

variable {s evs levels rest sh v v' st cd g} {P : Byte → Bool}

/-- A first sample that fails the predicate ends the confirmation (R157). -/
theorem State.midTick_confirm_of_not (h : P v = false) :
    (s.midTick evs (ackedRead v ++ rest) sh st cd g).confirm P =
      (false, s.midTick (evs ++ sampleFrame s.cfg v) rest sh st cd g) := by
  simp [State.confirm, h]

/-- After a first sample that satisfies the predicate, the second one decides (R157). -/
theorem State.midTick_confirm_of (h : P v = true) :
    (s.midTick evs (ackedRead v ++ (ackedRead v' ++ rest)) sh st cd g).confirm P = (P v',
      s.midTick (evs ++ sampleFrame s.cfg v ++ [.wait .tDebounce] ++ sampleFrame s.cfg v') rest sh st cd g) := by
  simp [State.confirm, h]

/-- A guard loop with fuel for its samples takes them all if its timer reaches 0 at the last of them (R172). -/
theorem guardLoop_midTick {samples : List Byte} {fuel : Nat} (hfuel : samples.length ≤ fuel)
    (htimer : guardTimer s.cfg.nGuard g (samples.map (pressed s.cfg)) = some 0) :
    guardLoop fuel (s.midTick evs (samples.flatMap ackedRead ++ rest) sh st cd g) =
      some (s.midTick (evs ++ samples.flatMap fun v => sampleFrame s.cfg v ++ [.wait .tTick]) rest sh st cd 0) := by
  induction samples generalizing fuel evs g with
  | nil =>
    obtain rfl : g = 0 := Option.some.inj htimer
    rw [guardLoop_of_timer_zero _ rfl, List.flatMap_nil, List.flatMap_nil, List.append_nil, List.nil_append]
  | cons v samples ih =>
    obtain ⟨fuel, rfl⟩ := Nat.exists_eq_add_one.mpr (Nat.zero_lt_of_lt hfuel)
    rw [List.map_cons, guardTimer] at htimer
    by_cases hg : g = 0
    · rw [if_pos hg] at htimer
      cases htimer
    · rw [if_neg hg] at htimer
      rw [guardLoop_succ_of_timer_ne_zero fuel hg, List.flatMap_cons, List.append_assoc, State.midTick_guardPass,
        ih (Nat.le_of_succ_le_succ hfuel) htimer, List.flatMap_cons, List.append_assoc]

theorem length_flatMap_ackedRead (samples : List Byte) :
    (samples.flatMap ackedRead).length = samples.length * 11 := by
  induction samples with
  | nil => rfl
  | cons v samples ih =>
    have hread : (ackedRead v).length = 11 := rfl
    rw [List.flatMap_cons, List.length_append, hread, ih, List.length_cons, Nat.succ_mul, Nat.add_comm]

/-- The guard loop has fuel for every scripted sample, since each takes at least one level (R172, log entry 4). -/
theorem State.midTick_guard {samples : List Byte}
    (htimer : guardTimer s.cfg.nGuard s.cfg.nGuard (samples.map (pressed s.cfg)) = some 0) :
    (s.midTick evs (samples.flatMap ackedRead ++ rest) sh st cd g).guard =
      some (s.midTick (evs ++ samples.flatMap fun v => sampleFrame s.cfg v ++ [.wait .tTick]) rest sh st cd 0) := by
  have hlength : samples.length ≤ (samples.flatMap ackedRead ++ rest).length := by
    rw [List.length_append, length_flatMap_ackedRead]
    omega
  refine guardLoop_midTick ?_ htimer
  exact hlength.trans ((Nat.le_succ _).trans (Nat.le_add_left _ _))

/-- The end of the countdown: supply and fan cut, the guard loop on its samples, then Off (R170). -/
theorem State.midTick_evalPowerDownWait {samples : List Byte} (hlast : cd - 1 = 0)
    (htimer : guardTimer s.cfg.nGuard s.cfg.nGuard (samples.map (pressed s.cfg)) = some 0) :
    (s.midTick evs (ackedWrite ++ (ackedWrite ++ (samples.flatMap ackedRead ++ rest))) sh st cd
        g).evalPowerDownWait =
      some (s.midTick (evs ++ gpioWriteFrame s.cfg (sh &&& ~~~s.cfg.mDc) ++
          gpioWriteFrame s.cfg (sh &&& ~~~s.cfg.mDc &&& ~~~s.cfg.mFan) ++
          samples.flatMap fun v => sampleFrame s.cfg v ++ [.wait .tTick]) rest
        (sh &&& ~~~s.cfg.mDc &&& ~~~s.cfg.mFan) .off 0 0) := by
  have hcut := s.midTick_cutPower evs (samples.flatMap ackedRead ++ rest) sh st (cd - 1) g
  calc _ = (State.guard (State.cutPower _)).map fun u => { u with state := .off } :=
        State.evalPowerDownWait_of_last hlast
    _ = (State.guard (s.midTick _ _ _ st (cd - 1) g)).map fun u => { u with state := .off } :=
        congrArg (fun t => (State.guard t).map fun u => { u with state := .off }) hcut
    _ = _ := by rw [State.midTick_guard htimer, hlast]; rfl

end MidTick

/-! ## A TICK on acknowledged transactions begins with the render -/

section Scripted

variable {s u : State} {rest : List Bool}

theorem exec_tick_scripted
    (h : (s.midTick (gpioWriteFrame s.cfg s.rendered) rest s.rendered s.state s.countdown s.guardCnt).EvaluatesTo u) :
    exec .tick (s.scripted (ackedWrite ++ rest)) = .next u.endTick :=
  exec_tick_of_evaluatesTo (by rwa [State.render_scripted])

end Scripted

/-! ## Draws of a TICK whose bytes are nacked under `ABORT` (R132, R134) -/

section Nacked

theorem Env.drawLine_of_cons {e : Env} {x : Bool} {rest : List Bool} (h : e.lineDraws = x :: rest) :
    e.drawLine = (x, { e with lineDraws := rest }) := by
  simp only [Env.drawLine, h]

theorem Env.afterWrite_of_nack {e : Env} {rest : List Bool} (h : e.lineDraws = true :: rest) :
    e.afterWrite .abort = { e with lineDraws := rest } := by
  simp [Env.afterWrite, Env.takeLines, Env.drawLine_of_cons h, phasesSent]

theorem Env.allAcked_of_nack {e : Env} {rest : List Bool} (h : e.lineDraws = true :: rest) :
    allAcked (e.takeLines 3).1 = false := by
  simp [Env.takeLines, Env.drawLine_of_cons h, allAcked]

theorem Env.afterRead_of_nack {e : Env} {rest : List Bool} (h : e.lineDraws = true :: rest) :
    e.afterRead .abort = { e with lineDraws := rest } := by
  simp [Env.afterRead, dataReached, Env.allAcked_of_nack h, Env.afterWrite_of_nack h]

variable {s : State} {v v' : Byte} {rest : List Bool} {bytes : List Byte}

/-- `s` with the environment's next levels and drawn bytes scripted. -/
def State.withDraws (levels : List Bool) (drawn : List Byte) (s : State) : State :=
  { s with bus := { s.bus with env := { s.bus.env with lineDraws := levels, byteDraws := drawn } } }

@[simp] theorem State.withDraws_cfg (levels : List Bool) (drawn : List Byte) (s : State) :
    (s.withDraws levels drawn).cfg = s.cfg := rfl

/-- Under `ABORT` a nacked render takes one level. -/
theorem State.render_env_of_nack (hp : s.cfg.nackPolicy = .abort) (h : s.bus.env.lineDraws = true :: rest) :
    s.blinkAdvance.render.bus.env = { s.bus.env with lineDraws := rest } := by
  rw [State.render_bus, hp]
  exact Env.afterWrite_of_nack h

/-- Under `ABORT` a sample nacked at once takes that level and draws its byte. -/
theorem State.sample_of_nack (hp : s.cfg.nackPolicy = .abort) (h : s.bus.env.lineDraws = true :: rest)
    (hb : s.bus.env.byteDraws = v :: bytes) :
    s.sample.1 = v ∧ s.sample.2.bus.env = { s.bus.env with lineDraws := rest, byteDraws := bytes } := by
  have hread := Bus.readTransaction_of_nack s.cfg (s.cfg.reg .gpio) (Env.allAcked_of_nack h)
  rw [hp, Env.afterRead_of_nack h] at hread
  simp [State.sample, Bus.rgpio, hread, Env.drawByte, hb]

/-- A confirmation needs both of its samples (R157). -/
theorem State.confirm_fst (s : State) (P : Byte → Bool) :
    (s.confirm P).1 = (P s.sample.1 && P (s.sample.2.wait .tDebounce).sample.1) := by
  simp only [State.confirm]
  split
  · next h => rw [h, Bool.true_and]
  · next h => rw [Bool.eq_false_of_not_eq_true h, Bool.false_and]

theorem State.evalOff_state (s : State) :
    s.evalOff.state = if (s.confirm (pressed s.cfg)).1 then .poweringUp else s.state := by
  simp only [State.evalOff]
  split
  · rfl
  · rw [State.confirm_frame]

/-- In Off a TICK powers up if both samples of its confirmation read pressed, however they came about (R156). -/
theorem exec_tick_off_state {x y : Byte} (hs : s.state = .off) (hx : s.blinkAdvance.render.sample.1 = x)
    (hy : (s.blinkAdvance.render.sample.2.wait .tDebounce).sample.1 = y) :
    ∃ t, exec .tick s = .next t ∧ t.state = if pressed s.cfg x && pressed s.cfg y then .poweringUp else .off := by
  have hstate := s.blinkAdvance.render.evalOff_state
  rw [State.confirm_fst, hx, hy] at hstate
  exact ⟨_, exec_tick_of_evaluatesTo (.off hs), hs ▸ hstate⟩

/-- Two nacked reads: the two drawn bytes decide. -/
theorem exec_tick_off_of_nack_nack (hs : s.state = .off) (hp : s.cfg.nackPolicy = .abort)
    (hl : s.bus.env.lineDraws = true :: true :: true :: rest) (hb : s.bus.env.byteDraws = v :: v' :: bytes) :
    ∃ t, exec .tick s = .next t ∧ t.state = if pressed s.cfg v && pressed s.cfg v' then .poweringUp else .off := by
  have hrender := State.render_env_of_nack hp hl
  obtain ⟨hx, hsample⟩ := State.sample_of_nack (s := s.blinkAdvance.render) hp (congrArg Env.lineDraws hrender)
    ((congrArg Env.byteDraws hrender).trans hb)
  obtain ⟨hy, -⟩ := State.sample_of_nack (s := s.blinkAdvance.render.sample.2.wait .tDebounce) hp
    (congrArg Env.lineDraws hsample) (congrArg Env.byteDraws hsample)
  exact exec_tick_off_state hs hx hy

/-- A nacked read, then an acknowledged one: the drawn byte and the sample decide. -/
theorem exec_tick_off_of_nack_acked (hs : s.state = .off) (hp : s.cfg.nackPolicy = .abort)
    (hl : s.bus.env.lineDraws = true :: true :: (ackedRead v' ++ rest)) (hb : s.bus.env.byteDraws = v :: bytes) :
    ∃ t, exec .tick s = .next t ∧ t.state = if pressed s.cfg v && pressed s.cfg v' then .poweringUp else .off := by
  have hrender := State.render_env_of_nack hp hl
  obtain ⟨hx, hsample⟩ := State.sample_of_nack (s := s.blinkAdvance.render) hp (congrArg Env.lineDraws hrender)
    ((congrArg Env.byteDraws hrender).trans hb)
  have hy := State.sample_acked (s := s.blinkAdvance.render.sample.2.wait .tDebounce)
    (congrArg Env.lineDraws hsample)
  exact exec_tick_off_state hs hx (congrArg Prod.fst hy)

/-- An acknowledged first sample that reads released decides alone. -/
theorem exec_tick_off_of_acked_released (hs : s.state = .off) (hp : s.cfg.nackPolicy = .abort)
    (hl : s.bus.env.lineDraws = true :: (ackedRead v ++ rest)) (hv : pressed s.cfg v = false) :
    ∃ t, exec .tick s = .next t ∧ t.state = .off := by
  have hrender := State.render_env_of_nack hp hl
  have hx := State.sample_acked (s := s.blinkAdvance.render) (congrArg Env.lineDraws hrender)
  obtain ⟨t, ht, hstate⟩ := exec_tick_off_state hs (congrArg Prod.fst hx) rfl
  exact ⟨t, ht, by simpa [hv] using hstate⟩

end Nacked

end Sys2Proof.Machine

namespace Sys2Proof.PowerSequencer

open Sys2Proof.Machine

/-- Settles O59, by the step lemma of the invariant. -/
theorem onItsOwnTheOutputsMatchTheState : Obligations.OnItsOwnTheOutputsMatchTheState :=
  fun _ _ => State.OnItsOwn.step

/-- Settles O37, row by row. -/
theorem ledTable : Obligations.LedTable := fun c ph =>
  ⟨rfl, rfl, rfl, rfl, rfl, rfl, rfl, fun st => led_and_not_ledMask c st ph⟩

/-- Settles O38: only the row of the power cut touches the guard timer. -/
theorem tickCompletes : Obligations.TickCompletes := by
  intro s h
  obtain ⟨t, ht⟩ | ⟨-, hs, hc⟩ := exec_tick_next_or_guardLoopHang s
  · obtain ⟨b, st, sh, cd, g, hb, hrow, heq⟩ := exec_tick_takesRow ht
    have hg : g = s.guardCnt := by
      cases hrow with
      | cutPower hs hc => exact absurd hc (h.resolve_left (not_not.mpr hs))
      | stay | powerUp | boardUp | boardDown | request | countDown => rfl
    subst heq
    exact ⟨_, ht, rfl, rfl, rfl, rfl, rfl, rfl, hg, hb⟩
  · exact absurd hc (h.resolve_left (not_not.mpr hs))

/-- Settles O39: each state but PowerDownWait completes, and so does PowerDownWait before the end of its countdown. -/
theorem tickIsStuckOnlyInTheGuardLoop : Obligations.TickIsStuckOnlyInTheGuardLoop :=
  exec_tick_next_or_guardLoopHang

/-- Settles O40: no row of the table touches the blink timer. -/
theorem tickAdvancesTheBlinkTimer : Obligations.TickAdvancesTheBlinkTimer := by
  intro s t h hlt
  obtain ⟨b, st, sh, cd, g, -, -, rfl⟩ := exec_tick_takesRow h
  have hwrap : s.blinkCnt + 1 = s.cfg.nBlink ↔ s.blinkCnt.toNat + 1 = s.cfg.nBlink.toNat := by
    constructor <;> intro h <;> bv_omega
  simp only [State.blinkAdvance, hwrap]
  constructor
  · intro hlast
    simp only [if_pos hlast, and_self]
  · intro hgo
    simp only [if_neg hgo, and_true]
    bv_omega

/-- Settles O41: the render's frame first, then what the evaluation appends, then the tick wait. -/
theorem tickRendersFirstAndWaitsLast : Obligations.TickRendersFirstAndWaitsLast := by
  intro s t h
  obtain ⟨u, rfl, heval⟩ := exec_tick_evaluatesTo h
  obtain ⟨evs, hevs, -⟩ := evaluation_paced heval
  refine ⟨evs, ?_⟩
  rw [State.render_bus] at hevs
  exact congrArg (· ++ [Event.wait .tTick]) hevs

/-- Settles O43: no row of the table writes an LED bit. -/
theorem evaluationNeverWritesAnLedBit : Obligations.EvaluationNeverWritesAnLedBit := by
  intro s t hvalid h
  obtain ⟨b, st, sh, cd, g, -, hrow, rfl⟩ := exec_tick_takesRow h
  exact (hrow.and_ledMask hvalid).trans s.rendered_and_ledMask

/-- Settles O44, row by row. -/
theorem tickTakesOneTransitionOfTheTable : Obligations.TickTakesOneTransitionOfTheTable := by
  intro s t h
  obtain ⟨b, st, sh, cd, g, -, hrow, rfl⟩ := exec_tick_takesRow h
  cases hrow with
  | stay hne =>
    cases hs : s.state with
    | powerDownWait => exact absurd hs hne
    | off | poweringUp | on | powerDownRequested => simp
  | powerUp hs => simp [hs]
  | boardUp hs => simp [hs]
  | boardDown hs => obtain hs | hs := hs <;> simp [hs]
  | request hs => simp [hs]
  | countDown hs hc => simpa [hs] using hc
  | cutPower hs hc => simp [hs, hc]

/-- Settles O45, by the confirmation of the pressed switch (R157, R159). -/
theorem offPowersUpOnAConfirmedPress : Obligations.OffPowersUpOnAConfirmedPress := by
  intro s v v' rest hs
  simp only [← pressed_iff, Bool.not_eq_true, List.append_assoc]
  refine ⟨fun hv => ?_, fun hv hv' => ?_, fun hv hv' => ?_⟩
  · simp [exec_tick_scripted (.off hs), hs, State.evalOff, State.midTick_confirm_of_not hv]
    rfl
  · simp [exec_tick_scripted (.off hs), hs, State.evalOff, State.midTick_confirm_of hv, hv']
    rfl
  · simp [exec_tick_scripted (.off hs), hs, State.evalOff, State.midTick_confirm_of hv, hv']
    rfl

/-- Settles O46, by the confirmation of the board up (R157, R162). -/
theorem poweringUpWaitsForTheBoard : Obligations.PoweringUpWaitsForTheBoard := by
  intro s v v' rest hs
  simp only [← up_iff, Bool.not_eq_true, List.append_assoc]
  refine ⟨fun hv => ?_, fun hv hv' => ?_, fun hv hv' => ?_⟩
  · simp [exec_tick_scripted (.poweringUp hs), hs, State.evalPoweringUp, State.midTick_confirm_of_not hv]
    rfl
  · simp [exec_tick_scripted (.poweringUp hs), hs, State.evalPoweringUp, State.midTick_confirm_of hv, hv']
    rfl
  · simp [exec_tick_scripted (.poweringUp hs), hs, State.evalPoweringUp, State.midTick_confirm_of hv, hv']
    rfl

/-- Settles O47, by the five cases of the two samples (R164, R165). -/
theorem onWatchesBoardThenSwitch : Obligations.OnWatchesBoardThenSwitch := by
  intro s v v' rest hs
  simp only [← up_iff, ← pressed_iff, Bool.not_eq_true, List.append_assoc]
  refine ⟨fun hv hv' => ?_, fun hv hv' => ?_, fun hv hp => ?_, fun hv hp hor => ?_, fun hv hp hp' hv' => ?_⟩
  · simp [exec_tick_scripted (.on hs), hs, State.evalOn, down_eq, hv, hv']
    rfl
  · simp [exec_tick_scripted (.on hs), hs, State.evalOn, down_eq, hv, hv']
    rfl
  · simp [exec_tick_scripted (.on hs), hs, State.evalOn, down_eq, released_eq, hv, hp]
    rfl
  · obtain hp' | hv' := hor
    · simp [exec_tick_scripted (.on hs), hs, State.evalOn, down_eq, released_eq, hv, hp, hp']
      rfl
    · simp [exec_tick_scripted (.on hs), hs, State.evalOn, down_eq, released_eq, hv, hp, hv']
      rfl
  · simp [exec_tick_scripted (.on hs), hs, State.evalOn, down_eq, released_eq, hv, hp, hp', hv']
    rfl

/-- Settles O48, by the confirmation of the board down (R157, R167). -/
theorem powerDownRequestedWaitsForTheBoard : Obligations.PowerDownRequestedWaitsForTheBoard := by
  intro s v v' rest hs
  simp only [← up_iff, Bool.not_eq_true, List.append_assoc]
  have hdown {x : Byte} {y : Bool} (h : up s.cfg x = y) : down s.cfg x = !y := by rw [down_eq, h]
  refine ⟨fun hv => ?_, fun hv hv' => ?_, fun hv hv' => ?_⟩
  · simp [exec_tick_scripted (.powerDownRequested hs), hs, State.evalPowerDownRequested,
      State.midTick_confirm_of_not (hdown hv)]
    rfl
  · simp [exec_tick_scripted (.powerDownRequested hs), hs, State.evalPowerDownRequested,
      State.midTick_confirm_of (hdown hv), hdown hv']
    rfl
  · simp [exec_tick_scripted (.powerDownRequested hs), hs, State.evalPowerDownRequested,
      State.midTick_confirm_of (hdown hv), hdown hv']
    rfl

/-- Settles O49: only the render acts on the bus. -/
theorem powerDownWaitCountsDown : Obligations.PowerDownWaitCountsDown := by
  intro s hs hc
  have hrender : s.blinkAdvance.render =
      { s.blinkAdvance with bus := s.blinkAdvance.render.bus, shadow := s.rendered } := rfl
  rw [exec_tick_of_evaluatesTo (.powerDownWait hs (State.evalPowerDownWait_render hc)), hrender, State.render_bus]
  rfl

/-- Settles O50: the power cut, then the guard loop on its samples, then Off. -/
theorem powerCutThenGuardThenOff : Obligations.PowerCutThenGuardThenOff := by
  intro s samples rest hs hc htimer
  have hlast : s.countdown - 1 = 0 := (counter_sub_one_eq_zero_iff _).mpr hc
  have hlevels : ackedWrite ++ ackedWrite ++ ackedWrite ++ samples.flatMap ackedRead ++ rest =
      ackedWrite ++ (ackedWrite ++ (ackedWrite ++ (samples.flatMap ackedRead ++ rest))) := by
    simp only [List.append_assoc]
  rw [hlevels]
  exact exec_tick_scripted (.powerDownWait hs (State.midTick_evalPowerDownWait hlast htimer))

/-- Settles O51: under `ABORT` a nacked read takes one level and draws its byte, and a power-up needs both bytes of the
confirmation, drawn or sampled. -/
theorem failedReadsCanTakeATransition : Obligations.FailedReadsCanTakeATransition := by
  intro s v v' bytes hs hp
  simp only [← pressed_iff, Bool.not_eq_true]
  refine ⟨?_, fun good rest hgood => ⟨?_, ?_⟩⟩
  · obtain ⟨t, ht, hstate⟩ := exec_tick_off_of_nack_nack
      (s := s.withDraws (List.replicate 5 true) (v :: v' :: bytes)) hs hp rfl rfl
    rw [State.withDraws_cfg] at hstate
    refine ⟨t, ht, fun hv hv' => ?_, fun hor => ?_⟩
    · simpa [hv, hv'] using hstate
    · rwa [Bool.and_eq_false_iff.mpr hor] at hstate
  · obtain ⟨t, ht, hstate⟩ := exec_tick_off_of_nack_acked
      (s := s.withDraws ([true, true] ++ ackedRead good ++ rest) (v :: bytes)) hs hp rfl rfl
    rw [State.withDraws_cfg, hgood, Bool.and_false] at hstate
    exact ⟨t, ht, hstate⟩
  · exact exec_tick_off_of_acked_released
      (s := s.withDraws ([true] ++ ackedRead good ++ [true] ++ rest) (v :: bytes)) hs hp rfl hgood

end Sys2Proof.PowerSequencer

/-! # Errors (60_exceptions.md): a bus fault found at boot is recorded and stops nothing, the class of a failed register
write, and no stop of the block on its own before the guard loop -/

namespace Sys2Proof.Machine

open Sys2Proof

/-! ## The block's own commands (R220) -/

section OwnCommand

variable {s t : State}

/-- With nothing pending an accepted record runs the command of its phase. -/
theorem step_of_nothing_pending (h : s.recordRefusal = none) (hpending : s.pending = []) :
    step s = exec s.phase.ownCommand s := by
  simp only [step, h, hpending]

/-- The first step of the boot is INIT, and it completes whatever it reads (R101, R191). -/
theorem step_bootInit (h : s.Kept) (hpending : s.pending = []) (hphase : s.phase = .bootInit) :
    step s = .next { s with
      bus := s.bus.checkIdle.2, rOk := s.bus.checkIdle.1, rBusfault := !s.bus.checkIdle.1, phase := .bootConfig } := by
  rw [step_of_nothing_pending h.recordRefusal hpending, hphase, Phase.ownCommand,
    exec_init_of_checkIdle Prod.mk.eta.symm, if_pos hphase]

/-- The second step of the boot is CONFIG, and it completes whatever becomes of its writes (R138). -/
theorem step_bootConfig (h : s.Kept) (hpending : s.pending = []) (hphase : s.phase = .bootConfig) :
    step s = .next { s with
      bus := Bus.writeRun s.cfg (configRun s.cfg) s.bus, shadow := 0x00, rOk := true, phase := .run } := by
  rw [step_of_nothing_pending h.recordRefusal hpending, hphase, Phase.ownCommand]
  simp only [exec, execConfig, State.configWrites_spec, State.finish, hphase, Phase.afterConfig]

/-- After the boot every step is a TICK. -/
theorem step_run (h : s.Kept) (hpending : s.pending = []) (hphase : s.phase = .run) :
    step s = exec .tick s := by
  rw [step_of_nothing_pending h.recordRefusal hpending, hphase, Phase.ownCommand]

/-- A run goes on from the next state of its first step. -/
theorem run_succ_of_step_next (h : step s = .next t) (n : Nat) :
    Host.Core.run Sys2Proof.core (n + 1) s = Host.Core.run Sys2Proof.core n t := by
  have hcore : Sys2Proof.core.step s = .next t := h
  simp only [Host.Core.run, hcore]

end OwnCommand

/-! ## The class of a failed write from its acknowledge slots (R193, R195) -/

/-- Fewer levels drawn are the first ones of more. -/
theorem Env.takeLines_take {m n : Nat} (h : m ≤ n) (e : Env) :
    (e.takeLines n).1.take m = (e.takeLines m).1 := by
  induction n generalizing m e with
  | zero => rw [Nat.le_zero.mp h]; rfl
  | succ n ih =>
    cases m with
    | zero => rfl
    | succ m => exact congrArg (e.drawLine.1 :: ·) (ih (Nat.le_of_succ_le_succ h) _)

/-- No class where every slot is an ack, else the class of the phase whose slot is the first nack. -/
theorem writeErrorClass_spec (levels : List Bool) :
    (writeErrorClass levels = none ↔ allAcked (levels.take 3) = true) ∧
      (writeErrorClass levels = some .nackAddr ↔ levels.take 1 = [true]) ∧
      (writeErrorClass levels = some .nackReg ↔ levels.take 2 = [false, true]) ∧
      (writeErrorClass levels = some .nackData ↔ levels.take 3 = [false, false, true]) := by
  match levels with
  | true :: _ | false :: true :: _ | false :: false :: true :: _ => simp [writeErrorClass, allAcked]
  | [] | [false] | [false, false] | false :: false :: false :: _ => simp [writeErrorClass, allAcked]

end Sys2Proof.Machine

namespace Sys2Proof.Exceptions

open Sys2Proof.Machine

/-- Settles O14: the step of INIT, then the step of CONFIG, each whatever the environment answers. -/
theorem bootReachesRun : Obligations.BootReachesRun := by
  intro c e hvalid s
  have hkept : State.Kept { s with bus := { s.bus with env := e } } :=
    (State.kept_resetWith hvalid).congr rfl rfl rfl rfl rfl
  have hinit := step_bootInit hkept rfl rfl
  have hconfig := step_bootConfig (hkept.step hinit) rfl rfl
  rw [configRun, Bus.writeRun_cons] at hconfig
  have hrun := (run_succ_of_step_next hinit 1).trans (run_succ_of_step_next hconfig 0)
  refine ⟨_, hrun, rfl, rfl, rfl, rfl, ⟨rfl, rfl⟩, ?_⟩
  simp [Bus.checkIdle_spec, Env.takeLines]

/-- Settles O33: `r_ok` is the AND of the three acknowledges, and the slots up to the first nack are the first levels
drawn. -/
theorem writeFailureClass : Obligations.WriteFailureClass := by
  intro r d s hr hgpio holat e cls
  obtain ⟨hnone, haddr, hreg, hdata⟩ := writeErrorClass_spec (e.takeLines 3).1
  rw [Env.takeLines_take (by decide)] at hnone haddr hreg hdata
  have hwreg := exec_wreg_of_writeTransaction hr hgpio holat (Bus.writeTransaction_spec _ _ d _)
  exact ⟨_, hwreg, hnone.symm, haddr, hreg, hdata⟩

/-- Settles O60: INIT and CONFIG always complete, and a TICK stops only where the countdown ends. -/
theorem onItsOwnItNeverStopsBeforeTheGuard : Obligations.OnItsOwnItNeverStopsBeforeTheGuard := by
  rintro s ⟨hkept, hpending, -⟩ hguard
  cases hphase : s.phase with
  | bootInit => exact ⟨_, step_bootInit hkept hpending hphase⟩
  | bootConfig => exact ⟨_, step_bootConfig hkept hpending hphase⟩
  | run =>
    rw [step_run hkept hpending hphase]
    obtain htick | ⟨-, hs, hc⟩ := exec_tick_next_or_guardLoopHang s
    · exact htick
    · exact absurd hc (hguard.resolve_left (not_not.mpr hs))

end Sys2Proof.Exceptions

/-! # Reset and hazards (70_reset_and_hazards.md): the wait time of each command, the healing of a dropped write, and
the block's own command in each phase -/

namespace Sys2Proof.Machine

open Sys2Proof

/-! ## The wait times of the stretches of trace (R235) -/

section Stretches

variable (c : Config)

theorem waitTime_wait (d : Delay) : waitTime c [.wait d] = c.duration d := rfl

/-- Stretches that wait equally long add up by their number. -/
theorem waitTime_flatMap_of_const {α : Type} {f : α → List Event} {k : Nat} (h : ∀ x, waitTime c (f x) = k)
    (l : List α) : waitTime c (l.flatMap f) = l.length * k := by
  induction l with
  | nil => rw [List.length_nil, Nat.zero_mul]; rfl
  | cons x l ih => rw [List.flatMap_cons, waitTime_append, h, ih, List.length_cons, Nat.succ_mul, Nat.add_comm]

/-- A run of written bytes. -/
theorem waitTime_flatMap_byteEvents (l : List (Byte × Bool)) :
    waitTime c (l.flatMap fun p => byteEvents p.1 p.2) = l.length * (24 * c.tQ + 3 * c.tAck) := by
  have hbyte (p : Byte × Bool) : waitTime c (byteEvents p.1 p.2) = 24 * c.tQ + 3 * c.tAck :=
    waitTime_byteEvents c p.1 p.2
  exact waitTime_flatMap_of_const c hbyte l

variable (r v : Byte) {levels : List Bool} {n : Nat}

/-- A write waits for its START, its STOP, and the bytes sent between them. -/
theorem waitTime_writeFrame (hlevels : levels.length = 3) (hn : n ≤ 3) :
    waitTime c (writeFrame c r v n levels) = 5 * c.tQ + n * (24 * c.tQ + 3 * c.tAck) := by
  have hsent : (([c.addrW, r, v].zip levels).take n).length = n := by simp [hlevels, hn]
  rw [writeFrame, waitTime_append, waitTime_append, waitTime_startEvents, waitTime_stopEvents,
    waitTime_flatMap_byteEvents, hsent]
  omega

/-- The head of a read with all its phases sent waits for the START, the repeated one, and three bytes. -/
theorem waitTime_readHeadFrame (hlevels : levels.length = 3) :
    waitTime c (readHeadFrame c r 3 levels) = 78 * c.tQ + 9 * c.tAck := by
  have hsent : (([c.addrW, r].zip levels).take 3).length = 2 := by simp [hlevels]
  have hagain : ((levels.drop 2).take 1).length = 1 := by simp [hlevels]
  rw [readHeadFrame, if_pos rfl, waitTime_append, waitTime_append, waitTime_append, waitTime_startEvents,
    waitTime_restartEvents, waitTime_flatMap_byteEvents,
    waitTime_flatMap_of_const c (waitTime_byteEvents c c.addrR), hsent, hagain]
  omega

/-- A read that reaches its data byte waits for its head, the byte and the STOP. -/
theorem waitTime_readFrame {e : Env} (h : dataReached c.nackPolicy (e.takeLines 3).1 = true) :
    waitTime c (readFrame c r e) = 98 * c.tQ + 12 * c.tAck := by
  rw [readFrame, phasesSent_of_dataReached _ _ h, if_pos h, waitTime_append, waitTime_append,
    waitTime_readHeadFrame c r (Env.takeLines_length 3 e),
    waitTime_readEvents c e.dataLevels true (Env.takeLines_length 8 _), waitTime_stopEvents]
  omega

theorem waitTime_ackedWriteFrame : waitTime c (ackedWriteFrame c r v) = 77 * c.tQ + 9 * c.tAck := by
  rw [ackedWriteFrame, waitTime_writeFrame c r v rfl le_rfl]
  omega

theorem waitTime_ackedReadFrame : waitTime c (ackedReadFrame c r v) = 98 * c.tQ + 12 * c.tAck := by
  rw [ackedReadFrame, waitTime_append, waitTime_append, waitTime_readHeadFrame c r rfl,
    waitTime_readEvents c (msbFirst v) true (length_msbFirst v), waitTime_stopEvents]
  omega

theorem waitTime_ackedRun (ws : List (Byte × Byte)) :
    waitTime c (ackedRun c ws) = ws.length * (77 * c.tQ + 9 * c.tAck) := by
  have hframe (w : Byte × Byte) : waitTime c (ackedWriteFrame c w.1 w.2) = 77 * c.tQ + 9 * c.tAck :=
    waitTime_ackedWriteFrame c w.1 w.2
  exact waitTime_flatMap_of_const c hframe ws

theorem waitTime_gpioWriteFrame : waitTime c (gpioWriteFrame c v) = 77 * c.tQ + 9 * c.tAck :=
  waitTime_ackedWriteFrame c _ v

theorem waitTime_sampleFrame : waitTime c (sampleFrame c v) = 98 * c.tQ + 12 * c.tAck :=
  waitTime_ackedReadFrame c _ v

end Stretches

/-! ## The phases of a transaction that are sent (R132) -/

section Sent

variable {p : NackPolicy} {levels : List Bool}

theorem phasesSent_le_three (p : NackPolicy) (levels : List Bool) : phasesSent p levels ≤ 3 := by
  unfold phasesSent
  split
  · exact le_rfl
  · split <;> decide

theorem phasesSent_ackedWrite (p : NackPolicy) : phasesSent p ackedWrite = 3 := by
  cases p <;> rfl

/-- A nack of the address ends a transaction under `ABORT`. -/
theorem phasesSent_of_head_nack (h : levels.head? = some true) : phasesSent .abort levels = 1 := by
  obtain ⟨rest, rfl⟩ := List.head?_eq_some_iff.mp h
  rfl

theorem dataReached_iff : dataReached p levels = true ↔ allAcked levels = true ∨ p = .continueAll := by
  rw [dataReached, Bool.or_eq_true, beq_iff_eq]

/-- Where the environment acknowledges every byte, a run of writes is the acknowledged run, however the acknowledges
are scripted or free. -/
theorem writeFrames_of_acks (c : Config) (ws : List (Byte × Byte)) (e : Env)
    (h : (e.takeLines (3 * ws.length)).1 = List.replicate (3 * ws.length) false) :
    (writeFrames c ws e).1 = ackedRun c ws := by
  induction ws generalizing e with
  | nil => rfl
  | cons w ws ih =>
    simp only [List.length_cons, Nat.mul_succ, Env.takeLines, List.replicate_succ, List.cons.injEq] at h
    obtain ⟨haddr, hindex, hdata, hrest⟩ := h
    have hacks : (e.takeLines 3).1 = ackedWrite := by simp only [Env.takeLines, haddr, hindex, hdata, ackedWrite]
    simp only [writeFrames, hacks, phasesSent_ackedWrite]
    exact congrArg (ackedWriteFrame c w.1 w.2 ++ ·) (ih _ hrest)

end Sent

/-! ## What an operation on the bus waits (R235) -/

/-- From `b` to `b'` the trace grew by a stretch that waits `n` in sum. -/
abbrev Bus.Waits (c : Config) (n : Nat) : Bus → Bus → Prop := Bus.Appends fun evs => waitTime c evs = n

/-- What meets `P` is the stretch that was appended. -/
theorem Bus.Appends.of_trace {P : List Event → Prop} {b b' : Bus} {evs : List Event} (h : b.Appends P b')
    (hevs : b'.trace = b.trace ++ evs) : P evs := by
  obtain ⟨evs', hevs', hP⟩ := h
  rwa [List.append_cancel_left (hevs.symm.trans hevs')]

section Waits

variable (c : Config) (b : Bus)

theorem Bus.release_waits (l : Line) : b.Waits c 0 (b.release l) := ⟨_, Bus.release_trace b l, rfl⟩

theorem Bus.driveLow_waits (l : Line) : b.Waits c 0 (b.driveLow l) := ⟨_, Bus.driveLow_trace b l, rfl⟩

theorem Bus.read_waits (l : Line) : b.Waits c 0 (b.read l).2 := ⟨[.rd l (b.level l).1], rfl, rfl⟩

theorem Bus.checkIdle_waits : b.Waits c (2 * c.tQ) b.checkIdle.2 := by
  rw [Bus.checkIdle_spec]
  exact ⟨_, rfl, (Nat.two_mul c.tQ).symm⟩

theorem Bus.writeByte_waits (v : Byte) : b.Waits c (24 * c.tQ + 3 * c.tAck) (b.writeByte v).2 := by
  rw [Bus.writeByte_spec]
  exact ⟨_, rfl, waitTime_byteEvents ..⟩

theorem Bus.readByte_waits (last : Bool) : b.Waits c (17 * c.tQ + 3 * c.tAck) (b.readByte last).2 := by
  rw [Bus.readByte_spec]
  exact ⟨_, rfl, waitTime_readEvents c _ last (Env.takeLines_length 8 _)⟩

theorem Bus.start_waits (a : Byte) : b.Waits c (26 * c.tQ + 3 * c.tAck) (b.start a).2 := by
  rw [Bus.start_spec]
  refine ⟨_, List.append_assoc .., (waitTime_append ..).trans ?_⟩
  rw [waitTime_startEvents, waitTime_byteEvents]
  omega

theorem Bus.rstart_waits (a : Byte) : b.Waits c (28 * c.tQ + 3 * c.tAck) (b.rstart a).2 := by
  rw [Bus.rstart_spec]
  refine ⟨_, List.append_assoc .., (waitTime_append ..).trans ?_⟩
  rw [waitTime_restartEvents, waitTime_byteEvents]
  omega

theorem Bus.stop_waits : b.Waits c (3 * c.tQ) b.stop := by
  rw [Bus.stop_spec]
  exact ⟨_, rfl, waitTime_stopEvents c⟩

/-- A register write waits for the phases it sends (R132). -/
theorem Bus.writeTransaction_waits (r v : Byte) :
    b.Waits c (5 * c.tQ + phasesSent c.nackPolicy (b.env.takeLines 3).1 * (24 * c.tQ + 3 * c.tAck))
      (b.writeTransaction c r v).2 := by
  rw [Bus.writeTransaction_spec]
  exact ⟨_, rfl, waitTime_writeFrame c r v (Env.takeLines_length 3 _) (phasesSent_le_three ..)⟩

theorem Bus.readTransaction_waits (r : Byte) (h : dataReached c.nackPolicy (b.env.takeLines 3).1 = true) :
    b.Waits c (98 * c.tQ + 12 * c.tAck) (b.readTransaction c r).2.2 :=
  ⟨_, b.readTransaction_trace c r, waitTime_readFrame c r h⟩

end Waits

section Commands

variable {i : Instr} {s t : State}

/-- Every command that completes appends to the trace (R33). -/
theorem exec_appends (h : exec i s = .next t) : s.bus.Appends (fun _ => True) t.bus := by
  have hs : s = State.prepend s.bus.trace { s with bus := { s.bus with trace := [] } } := by
    rw [State.prepend_of_trace_nil _ _ rfl]
  rw [hs, exec_prepend] at h
  obtain ⟨u, -, rfl⟩ := mapNext_eq_next h
  exact ⟨u.bus.trace, rfl, trivial⟩

/-- WGPIO and WREG leave the bus of one write transaction (R131, R139). -/
theorem exec_write_bus (hi : ∃ d, i = .wgpio d ∨ ∃ r, i = .wreg r d) (h : exec i s = .next t) :
    ∃ r d, t.bus = (s.bus.writeTransaction s.cfg r d).2 := by
  obtain ⟨d, rfl | ⟨r, rfl⟩⟩ := hi
  · cases h
    exact ⟨s.cfg.reg .gpio, d, rfl⟩
  · exact ⟨indexByte r, d, execWreg_bus h⟩

/-- RGPIO and RREG leave the bus of one read transaction (R133, R141). -/
theorem exec_read_bus (hi : i = .rgpio ∨ ∃ r, i = .rreg r) (h : exec i s = .next t) :
    ∃ r, t.bus = (s.bus.readTransaction s.cfg r).2.2 := by
  obtain rfl | ⟨r, rfl⟩ := hi
  · cases h
    exact ⟨s.cfg.reg .gpio, rfl⟩
  · exact ⟨indexByte r, execRreg_bus h⟩

/-- A CONFIG whose 18 bytes are acknowledged waits for six whole writes (R135). -/
theorem exec_config_waits (hacks : (s.bus.env.takeLines 18).1 = List.replicate 18 false)
    (h : exec .config s = .next t) : s.bus.Waits s.cfg (462 * s.cfg.tQ + 54 * s.cfg.tAck) t.bus := by
  rw [exec_config_of_writeFrames Prod.mk.eta.symm] at h
  cases h
  refine ⟨ackedRun s.cfg (configRun s.cfg), ?_, (waitTime_ackedRun ..).trans ?_⟩
  · rw [writeFrames_of_acks s.cfg (configRun s.cfg) _ hacks]
  · have hlength : (configRun s.cfg).length = 6 := rfl
    rw [hlength]
    omega

end Commands

/-! ## The guard timer needs its window in samples (R172) -/

/-- Every sample takes at most one from the timer, and a pressed one loads the window again. -/
theorem le_length_of_guardTimer {window n : Counter} {reads : List Bool} (hn : n ≤ window)
    (h : guardTimer window n reads = some 0) : n.toNat ≤ reads.length := by
  induction reads generalizing n with
  | nil =>
    obtain rfl : n = 0 := Option.some.inj h
    exact le_rfl
  | cons pressed reads ih =>
    rw [guardTimer] at h
    by_cases hzero : n = 0
    · rw [if_pos hzero] at h
      cases h
    · rw [if_neg hzero] at h
      rw [List.length_cons]
      cases pressed with
      | true => exact (BitVec.le_def.mp hn).trans ((ih (BitVec.le_refl _) h).trans (Nat.le_succ _))
      | false =>
        have hle : n - 1 ≤ window := by bv_omega
        have hdown := ih hle h
        bv_omega

/-! ## A render that heals a dropped write (R231) -/

/-- A TICK whose render is acknowledged begins with the whole frame of that write (R153). -/
theorem exec_tick_scripted_trace {s t : State} {rest : List Bool}
    (h : exec .tick (s.scripted (ackedWrite ++ rest)) = .next t) :
    ∃ evs, t.bus.trace = s.bus.trace ++ gpioWriteFrame s.cfg s.rendered ++ evs := by
  obtain ⟨u, rfl, heval⟩ := exec_tick_evaluatesTo h
  obtain ⟨evs, hevs, -⟩ := (evaluation_paced heval).trans u.wait_tTick_paced
  rw [State.render_scripted] at hevs
  exact ⟨evs, hevs⟩

end Sys2Proof.Machine

namespace Sys2Proof.ResetAndHazards

open Sys2Proof.Machine

/-- Settles O42: WGPIO leaves its operand in the shadow whatever its acknowledges, and the next render writes that
shadow with the LED bits replaced. -/
theorem droppedWriteHealsInOneTick : Obligations.DroppedWriteHealsInOneTick := by
  intro d s u t rest regs hwrite htick render
  rw [exec_wgpio_of_writeTransaction Prod.mk.eta.symm] at hwrite
  cases hwrite
  exact ⟨exec_tick_scripted_trace htick, deviceAfter_ackedWriteFrame s.cfg s.cfg.regs.gpio _ regs⟩

/-- Settles O52, by the one operation on the bus each command is. -/
theorem engineWaitTimes : Obligations.EngineWaitTimes := by
  intro i s t h
  obtain ⟨evs, hevs, -⟩ := exec_appends h
  refine ⟨evs, hevs, ?_, ?_, ?_, ?_, ?_, ?_, ?_⟩
  · rintro l (rfl | rfl | rfl) <;> cases h
    · exact (s.bus.release_waits s.cfg l).of_trace hevs
    · exact (s.bus.driveLow_waits s.cfg l).of_trace hevs
    · exact (s.bus.read_waits s.cfg l).of_trace hevs
  · rintro rfl
    cases h
    exact (s.bus.checkIdle_waits s.cfg).of_trace hevs
  · rintro d rfl
    cases h
    exact (s.bus.writeByte_waits s.cfg d).of_trace hevs
  · rintro last rfl
    cases h
    exact (s.bus.readByte_waits s.cfg last).of_trace hevs
  · rintro d rfl
    cases h
    exact (s.bus.start_waits s.cfg d).of_trace hevs
  · rintro d rfl
    cases h
    exact (s.bus.rstart_waits s.cfg d).of_trace hevs
  · rintro rfl
    cases h
    exact (s.bus.stop_waits s.cfg).of_trace hevs

/-- Settles O53, by the phases each transaction sends. -/
theorem driverWaitTimes : Obligations.DriverWaitTimes := by
  intro i s t h
  obtain ⟨evs, hevs, -⟩ := exec_appends h
  refine ⟨evs, hevs, fun hi => ?_, fun hi hwhole => ?_, fun hi hacks => ?_⟩
  · obtain ⟨r, d, hbus⟩ := exec_write_bus hi h
    have hwaits := (hbus ▸ s.bus.writeTransaction_waits s.cfg r d).of_trace hevs
    refine ⟨fun hwhole => ?_, fun hpolicy hnack => ?_⟩
    · rw [phasesSent_of_dataReached _ _ (dataReached_iff.mpr hwhole)] at hwaits
      omega
    · rw [hpolicy, phasesSent_of_head_nack hnack] at hwaits
      omega
  · obtain ⟨r, hbus⟩ := exec_read_bus hi h
    exact (hbus ▸ s.bus.readTransaction_waits s.cfg r (dataReached_iff.mpr hwhole)).of_trace hevs
  · subst hi
    exact (exec_config_waits hacks h).of_trace hevs

/-- Settles O54, by the trace of each path, and the samples the guard timer needs. -/
theorem tickWaitTimes : Obligations.TickWaitTimes := by
  intro s rest c w r tick takes
  have takes_of {levels : List Bool} {evs : List Event} {t : State} {time : Nat}
      (h : exec .tick (s.scripted (levels ++ rest)) = .next t)
      (htrace : t.bus.trace = s.bus.trace ++ evs ++ [.wait .tTick]) (htime : waitTime c evs + tick = time) :
      takes levels time := by
    refine ⟨t, _, h, htrace.trans (List.append_assoc ..), ?_⟩
    rwa [waitTime_append, waitTime_wait]
  have hwrite (v : Byte) : waitTime c (gpioWriteFrame s.cfg v) = w := waitTime_gpioWriteFrame s.cfg v
  have hsample (v : Byte) : waitTime c (sampleFrame s.cfg v) = r := waitTime_sampleFrame s.cfg v
  refine ⟨fun hs v hv => ?_, fun hs v v' hv hv' => ?_, fun hs hc => ?_, fun hs hc samples htimer => ⟨?_, ?_⟩⟩
  · obtain ⟨hcalm, -, -⟩ := PowerSequencer.offPowersUpOnAConfirmedPress s v v rest hs
    refine takes_of (hcalm hv) rfl ?_
    rw [waitTime_append, hwrite, hsample]
  · obtain ⟨-, -, hpress⟩ := PowerSequencer.offPowersUpOnAConfirmedPress s v v' rest hs
    refine takes_of (hpress hv hv') rfl ?_
    simp only [waitTime_append, hwrite, hsample, waitTime_wait]
    omega
  · have hgo : s.countdown - 1 ≠ 0 := mt (counter_sub_one_eq_zero_iff _).mp hc
    refine takes_of (exec_tick_scripted (.powerDownWait hs (State.evalPowerDownWait_of_not_last hgo))) rfl ?_
    rw [hwrite]
  · have hle := le_length_of_guardTimer (BitVec.le_refl _) htimer
    rwa [List.length_map] at hle
  · refine takes_of (PowerSequencer.powerCutThenGuardThenOff s samples rest hs hc htimer) rfl ?_
    have hpass (v : Byte) : waitTime c (sampleFrame s.cfg v ++ [.wait .tTick]) = r + tick := by
      rw [waitTime_append, hsample, waitTime_wait]
    simp only [waitTime_append, hwrite, waitTime_flatMap_of_const c hpass]
    omega

/-- Settles O9, by the phase. -/
theorem blockIssuesItsOwnCommand : Obligations.BlockIssuesItsOwnCommand := by
  intro s haccepted hpending
  rw [step_of_nothing_pending haccepted hpending]
  cases s.phase with
  | bootInit | bootConfig | run => rfl

end Sys2Proof.ResetAndHazards
